-- ==== Sys2Proof/Word.lean ====
section
/-! DEFINITION. Sys2Proof/Word.lean: the two word types of the CPU bus (R7) and the plain data of one binary64 number (R558, D29). Helpers over them stand in Sys2Proof/Machine/Bits.lean and Machine/Float64.lean. -/

namespace Sys2Proof

/-- R7: a Byte is "unsigned 8-bit". -/
abbrev Byte := BitVec 8

/-- R7: a Word is "unsigned 16-bit"; CPU addresses and PC are words. -/
abbrev Word := BitVec 16

/-- R98: a PPU address is 14-bit. -/
abbrev PpuAddr := BitVec 14

/-- One finite binary64 number (R558, D29: "binary64 arithmetic"), in sign and magnitude: its value is
`units` times 2^-1074 (the smallest binary64 step), negated when `neg` holds. Every finite binary64 number has exactly
one such pair, the two zeros among them. Infinities and NaN do not arise in the audio chain and have no form here. -/
structure F64 where
  neg : Bool
  units : Nat
deriving DecidableEq, Repr, Inhabited

/-- +0. -/
def F64.zero : F64 := { neg := false, units := 0 }

end Sys2Proof
end

