-- ==== Sys2Proof/Machine/Bits.lean ====
section
/-! DEFINITION. Sys2Proof/Machine/Bits.lean: the bit, byte and word helpers of the spec's notation (R10, R11, R12, R16). -/

namespace Sys2Proof.Machine

/-- R10: `v[i]`. -/
def bitAt {n : Nat} (v : BitVec n) (i : Nat) : Bool := v.getLsbD i

/-- R10: the field `v[lo+w-1:lo]` of w bits. -/
def getField {n : Nat} (v : BitVec n) (lo w : Nat) : BitVec w := v.extractLsb' lo w

/-- `v[lo+w-1:lo] <- x`: the field replaced, every other bit kept. -/
def putField {n w : Nat} (v : BitVec n) (lo : Nat) (x : BitVec w) : BitVec n :=
  (v &&& ~~~((BitVec.allOnes w).setWidth n <<< lo)) ||| (x.setWidth n <<< lo)

/-- `v[i] <- b`. -/
def putBit {n : Nat} (v : BitVec n) (i : Nat) (b : Bool) : BitVec n := putField v i (BitVec.ofBool b)

/-- R11: `hi:lo` of two bytes. -/
def mkWord (hi lo : Byte) : Word := hi ++ lo

/-- `a[15:8]`. -/
def hiByte (a : Word) : Byte := a.extractLsb' 8 8

/-- `a[7:0]`. -/
def loByte (a : Word) : Byte := a.extractLsb' 0 8

/-- R12: `zext_16(b)`. -/
def zext16 (b : Byte) : Word := b.setWidth 16

/-- R12: `sext_16(b)`. -/
def sext16 (b : Byte) : Word := b.signExtend 16

/-- R16: `page(a)`. -/
def page (a : Word) : Byte := hiByte a

/-- R16: `crossed(a, b)`. -/
def crossed (a b : Word) : Bool := page a != page b

/-- A flag as a number, 0 or 1. -/
def bitNat (b : Bool) : Nat := if b then 1 else 0

/-- R531: `reverse8`, the bits of a byte in the other order. -/
def reverse8 (b : Byte) : Byte :=
  BitVec.ofBool (bitAt b 0) ++ BitVec.ofBool (bitAt b 1) ++ BitVec.ofBool (bitAt b 2) ++ BitVec.ofBool (bitAt b 3)
    ++ BitVec.ofBool (bitAt b 4) ++ BitVec.ofBool (bitAt b 5) ++ BitVec.ofBool (bitAt b 6) ++ BitVec.ofBool (bitAt b 7)

end Sys2Proof.Machine
end

