-- ==== Sys2Proof/Syntax.lean ====
section
/-! DEFINITION. Sys2Proof/Syntax.lean: the instructions (R160, R308) and their operand forms, the 13 addressing modes of R140. A row of spec/opcode_table.json is a constructor of Instr with one operand form; the rows of one mnemonic are the operand forms of its one constructor. -/

namespace Sys2Proof

/-- The addressing modes that give an effective address by R145 to R154, with their operand bytes (a two-byte operand as
the word b2:b1). -/
inductive MemMode
  /-- R145, zero-page -/
  | zp (b : Byte)
  /-- R146, zero-page,X -/
  | zpx (b : Byte)
  /-- R147, zero-page,Y -/
  | zpy (b : Byte)
  /-- R149, absolute -/
  | abs (w : Word)
  /-- R150, absolute,X -/
  | absx (w : Word)
  /-- R151, absolute,Y -/
  | absy (w : Word)
  /-- R153, indexed-indirect (zp,X) -/
  | izx (b : Byte)
  /-- R154, indirect-indexed (zp),Y -/
  | izy (b : Byte)
deriving DecidableEq, Repr

/-- The source operand of a load, ALU or compare instruction: immediate (R144) or memory. -/
inductive ReadOperand
  | imm (b : Byte)
  | mem (m : MemMode)
deriving DecidableEq, Repr

/-- The operand of a shift or rotate: the accumulator (R143) or memory. -/
inductive ShiftOperand
  | acc
  | mem (m : MemMode)
deriving DecidableEq, Repr

/-- The operand of JMP: absolute (R149) or indirect (R152). -/
inductive JumpOperand
  | abs (w : Word)
  | ind (w : Word)
deriving DecidableEq, Repr

/-- The 56 legal mnemonics (R160), in the order of the rule files, and NOP_ILLEGAL (R308) with its opcode byte: one constructor a mnemonic
(assumption 22, DESIGN CHOICE, safe). -/
inductive Instr
  -- 40_load_store.md
  | lda (o : ReadOperand)
  | ldx (o : ReadOperand)
  | ldy (o : ReadOperand)
  | sta (m : MemMode)
  | stx (m : MemMode)
  | sty (m : MemMode)
  | tax
  | tay
  | txa
  | tya
  | tsx
  | txs
  | pha
  | pla
  | php
  | plp
  -- 41_arithmetic_logic.md
  | adc (o : ReadOperand)
  | sbc (o : ReadOperand)
  | and (o : ReadOperand)
  | ora (o : ReadOperand)
  | eor (o : ReadOperand)
  | bit (m : MemMode)
  | cmp (o : ReadOperand)
  | cpx (o : ReadOperand)
  | cpy (o : ReadOperand)
  | inc (m : MemMode)
  | dec (m : MemMode)
  | inx
  | iny
  | dex
  | dey
  | asl (o : ShiftOperand)
  | lsr (o : ShiftOperand)
  | rol (o : ShiftOperand)
  | ror (o : ShiftOperand)
  -- 42_control_flow.md; `off` is the signed offset byte of R148
  | bcc (off : Byte)
  | bcs (off : Byte)
  | beq (off : Byte)
  | bmi (off : Byte)
  | bne (off : Byte)
  | bpl (off : Byte)
  | bvc (off : Byte)
  | bvs (off : Byte)
  | jmp (o : JumpOperand)
  | jsr (target : Word)
  | rts
  | brk
  | rti
  -- 43_flags_misc.md
  | clc
  | sec
  | cli
  | sei
  | cld
  | sed
  | clv
  | nop
  | nopIllegal (opcode : Byte)
deriving DecidableEq, Repr

end Sys2Proof
end

