-- ==== Sys2Proof/WellFormed.lean ====
section
/-! DEFINITION. Sys2Proof/WellFormed.lean: which operand forms an instruction has (the "Operands" and "Encoding" lines of R200 to R308), as a Bool. Every operand byte value is legal (R161). -/

namespace Sys2Proof

/-- The memory modes of the eight-form ALU reads and of STA: zp, zpx, abs, absx, absy, izx, izy (41_arithmetic_logic.md, "ALU read modes"). -/
def MemMode.isAluMode : MemMode → Bool
  | .zpy _ => false
  | _ => true

/-- zp, zpx, abs, absx: the memory modes of INC, DEC and the shifts (R251), and of LDY (R202). -/
def MemMode.isRmwMode : MemMode → Bool
  | .zp _ | .zpx _ | .abs _ | .absx _ => true
  | _ => false

/-- zp, zpy, abs, absy: the memory modes of LDX (R201). -/
def MemMode.isLdxMode : MemMode → Bool
  | .zp _ | .zpy _ | .abs _ | .absy _ => true
  | _ => false

/-- zp, zpy, abs: STX (R204). -/
def MemMode.isStxMode : MemMode → Bool
  | .zp _ | .zpy _ | .abs _ => true
  | _ => false

/-- zp, zpx, abs: STY (R205). -/
def MemMode.isStyMode : MemMode → Bool
  | .zp _ | .zpx _ | .abs _ => true
  | _ => false

/-- zp, abs: BIT (R236), and the memory forms of CPX and CPY (R239, R240). -/
def MemMode.isPlainMode : MemMode → Bool
  | .zp _ | .abs _ => true
  | _ => false

/-- An immediate operand, or a memory operand in a mode the predicate allows. -/
def ReadOperand.allows (ok : MemMode → Bool) : ReadOperand → Bool
  | .imm _ => true
  | .mem m => ok m

/-- The accumulator, or a memory operand in a mode of R251. -/
def ShiftOperand.wf : ShiftOperand → Bool
  | .acc => true
  | .mem m => m.isRmwMode

/-- The 105 illegal opcode bytes, listed as R159 lists them. -/
def illegalOpcodes : List Byte :=
  [0x02, 0x03, 0x04, 0x07, 0x0B, 0x0C, 0x0F, 0x12, 0x13, 0x14, 0x17, 0x1A, 0x1B, 0x1C, 0x1F]
  ++ [0x22, 0x23, 0x27, 0x2B, 0x2F, 0x32, 0x33, 0x34, 0x37, 0x3A, 0x3B, 0x3C, 0x3F, 0x42, 0x43]
  ++ [0x44, 0x47, 0x4B, 0x4F, 0x52, 0x53, 0x54, 0x57, 0x5A, 0x5B, 0x5C, 0x5F, 0x62, 0x63, 0x64]
  ++ [0x67, 0x6B, 0x6F, 0x72, 0x73, 0x74, 0x77, 0x7A, 0x7B, 0x7C, 0x7F, 0x80, 0x82, 0x83, 0x87]
  ++ [0x89, 0x8B, 0x8F, 0x92, 0x93, 0x97, 0x9B, 0x9C, 0x9E, 0x9F, 0xA3, 0xA7, 0xAB, 0xAF, 0xB2]
  ++ [0xB3, 0xB7, 0xBB, 0xBF, 0xC2, 0xC3, 0xC7, 0xCB, 0xCF, 0xD2, 0xD3, 0xD4, 0xD7, 0xDA, 0xDB]
  ++ [0xDC, 0xDF, 0xE2, 0xE3, 0xE7, 0xEB, 0xEF, 0xF2, 0xF3, 0xF4, 0xF7, 0xFA, 0xFB, 0xFC, 0xFF]

/-- A well-formed instruction is one of the 256 rows of spec/opcode_table.json with any operand bytes (R158, R159, R161). -/
def Instr.wf : Instr → Bool
  | .lda o | .adc o | .sbc o | .and o | .ora o | .eor o | .cmp o => o.allows MemMode.isAluMode
  | .ldx o => o.allows MemMode.isLdxMode
  | .ldy o => o.allows MemMode.isRmwMode
  | .cpx o | .cpy o => o.allows MemMode.isPlainMode
  | .sta m => m.isAluMode
  | .stx m => m.isStxMode
  | .sty m => m.isStyMode
  | .bit m => m.isPlainMode
  | .inc m | .dec m => m.isRmwMode
  | .asl o | .lsr o | .rol o | .ror o => o.wf
  | .tax | .tay | .txa | .tya | .tsx | .txs | .pha | .pla | .php | .plp => true
  | .inx | .iny | .dex | .dey => true
  | .bcc _ | .bcs _ | .beq _ | .bmi _ | .bne _ | .bpl _ | .bvc _ | .bvs _ => true
  | .jmp _ | .jsr _ | .rts | .brk | .rti => true
  | .clc | .sec | .cli | .sei | .cld | .sed | .clv | .nop => true
  | .nopIllegal op => illegalOpcodes.contains op

end Sys2Proof
end

