-- ==== Sys2Proof/Decode.lean ====
section
/-! DEFINITION. Sys2Proof/Decode.lean: the opcode map of R157 and R158 with the illegal opcodes of R159, decoding of any list of bytes (R140, R141), and the encoder, written from the "Encoding" lines of R200 to R308. -/

namespace Sys2Proof
open Sys2Proof.Machine (mkWord hiByte loByte)

/-- R157, R158: row 0x of the map, each opcode with the instruction it and its operand bytes stand for: `b1` is byte 1, `w` the word b2:b1. -/
def opcodeRow0 (b1 : Byte) (w : Word) : List (Byte × Instr) :=
  [(0x00, .brk), (0x01, .ora (.mem (.izx b1))), (0x05, .ora (.mem (.zp b1))), (0x06, .asl (.mem (.zp b1))), (0x08, .php),
      (0x09, .ora (.imm b1)), (0x0A, .asl .acc), (0x0D, .ora (.mem (.abs w))),
      (0x0E, .asl (.mem (.abs w)))]

/-- R157, R158: row 1x of the map, each opcode with the instruction it and its operand bytes stand for: `b1` is byte 1, `w` the word b2:b1. -/
def opcodeRow1 (b1 : Byte) (w : Word) : List (Byte × Instr) :=
  [(0x10, .bpl b1), (0x11, .ora (.mem (.izy b1))), (0x15, .ora (.mem (.zpx b1))), (0x16, .asl (.mem (.zpx b1))),
      (0x18, .clc), (0x19, .ora (.mem (.absy w))), (0x1D, .ora (.mem (.absx w))),
      (0x1E, .asl (.mem (.absx w)))]

/-- R157, R158: row 2x of the map, each opcode with the instruction it and its operand bytes stand for: `b1` is byte 1, `w` the word b2:b1. -/
def opcodeRow2 (b1 : Byte) (w : Word) : List (Byte × Instr) :=
  [(0x20, .jsr w), (0x21, .and (.mem (.izx b1))), (0x24, .bit (.zp b1)), (0x25, .and (.mem (.zp b1))),
      (0x26, .rol (.mem (.zp b1))), (0x28, .plp), (0x29, .and (.imm b1)), (0x2A, .rol .acc),
      (0x2C, .bit (.abs w)), (0x2D, .and (.mem (.abs w))), (0x2E, .rol (.mem (.abs w)))]

/-- R157, R158: row 3x of the map, each opcode with the instruction it and its operand bytes stand for: `b1` is byte 1, `w` the word b2:b1. -/
def opcodeRow3 (b1 : Byte) (w : Word) : List (Byte × Instr) :=
  [(0x30, .bmi b1), (0x31, .and (.mem (.izy b1))), (0x35, .and (.mem (.zpx b1))), (0x36, .rol (.mem (.zpx b1))),
      (0x38, .sec), (0x39, .and (.mem (.absy w))), (0x3D, .and (.mem (.absx w))),
      (0x3E, .rol (.mem (.absx w)))]

/-- R157, R158: row 4x of the map, each opcode with the instruction it and its operand bytes stand for: `b1` is byte 1, `w` the word b2:b1. -/
def opcodeRow4 (b1 : Byte) (w : Word) : List (Byte × Instr) :=
  [(0x40, .rti), (0x41, .eor (.mem (.izx b1))), (0x45, .eor (.mem (.zp b1))), (0x46, .lsr (.mem (.zp b1))), (0x48, .pha),
      (0x49, .eor (.imm b1)), (0x4A, .lsr .acc), (0x4C, .jmp (.abs w)), (0x4D, .eor (.mem (.abs w))),
      (0x4E, .lsr (.mem (.abs w)))]

/-- R157, R158: row 5x of the map, each opcode with the instruction it and its operand bytes stand for: `b1` is byte 1, `w` the word b2:b1. -/
def opcodeRow5 (b1 : Byte) (w : Word) : List (Byte × Instr) :=
  [(0x50, .bvc b1), (0x51, .eor (.mem (.izy b1))), (0x55, .eor (.mem (.zpx b1))), (0x56, .lsr (.mem (.zpx b1))),
      (0x58, .cli), (0x59, .eor (.mem (.absy w))), (0x5D, .eor (.mem (.absx w))),
      (0x5E, .lsr (.mem (.absx w)))]

/-- R157, R158: row 6x of the map, each opcode with the instruction it and its operand bytes stand for: `b1` is byte 1, `w` the word b2:b1. -/
def opcodeRow6 (b1 : Byte) (w : Word) : List (Byte × Instr) :=
  [(0x60, .rts), (0x61, .adc (.mem (.izx b1))), (0x65, .adc (.mem (.zp b1))), (0x66, .ror (.mem (.zp b1))), (0x68, .pla),
      (0x69, .adc (.imm b1)), (0x6A, .ror .acc), (0x6C, .jmp (.ind w)), (0x6D, .adc (.mem (.abs w))),
      (0x6E, .ror (.mem (.abs w)))]

/-- R157, R158: row 7x of the map, each opcode with the instruction it and its operand bytes stand for: `b1` is byte 1, `w` the word b2:b1. -/
def opcodeRow7 (b1 : Byte) (w : Word) : List (Byte × Instr) :=
  [(0x70, .bvs b1), (0x71, .adc (.mem (.izy b1))), (0x75, .adc (.mem (.zpx b1))), (0x76, .ror (.mem (.zpx b1))),
      (0x78, .sei), (0x79, .adc (.mem (.absy w))), (0x7D, .adc (.mem (.absx w))),
      (0x7E, .ror (.mem (.absx w)))]

/-- R157, R158: row 8x of the map, each opcode with the instruction it and its operand bytes stand for: `b1` is byte 1, `w` the word b2:b1. -/
def opcodeRow8 (b1 : Byte) (w : Word) : List (Byte × Instr) :=
  [(0x81, .sta (.izx b1)), (0x84, .sty (.zp b1)), (0x85, .sta (.zp b1)), (0x86, .stx (.zp b1)), (0x88, .dey), (0x8A, .txa),
      (0x8C, .sty (.abs w)), (0x8D, .sta (.abs w)), (0x8E, .stx (.abs w))]

/-- R157, R158: row 9x of the map, each opcode with the instruction it and its operand bytes stand for: `b1` is byte 1, `w` the word b2:b1. -/
def opcodeRow9 (b1 : Byte) (w : Word) : List (Byte × Instr) :=
  [(0x90, .bcc b1), (0x91, .sta (.izy b1)), (0x94, .sty (.zpx b1)), (0x95, .sta (.zpx b1)), (0x96, .stx (.zpy b1)),
      (0x98, .tya), (0x99, .sta (.absy w)), (0x9A, .txs), (0x9D, .sta (.absx w))]

/-- R157, R158: row Ax of the map, each opcode with the instruction it and its operand bytes stand for: `b1` is byte 1, `w` the word b2:b1. -/
def opcodeRowA (b1 : Byte) (w : Word) : List (Byte × Instr) :=
  [(0xA0, .ldy (.imm b1)), (0xA1, .lda (.mem (.izx b1))), (0xA2, .ldx (.imm b1)), (0xA4, .ldy (.mem (.zp b1))),
      (0xA5, .lda (.mem (.zp b1))), (0xA6, .ldx (.mem (.zp b1))), (0xA8, .tay), (0xA9, .lda (.imm b1)), (0xAA, .tax),
      (0xAC, .ldy (.mem (.abs w))), (0xAD, .lda (.mem (.abs w))),
      (0xAE, .ldx (.mem (.abs w)))]

/-- R157, R158: row Bx of the map, each opcode with the instruction it and its operand bytes stand for: `b1` is byte 1, `w` the word b2:b1. -/
def opcodeRowB (b1 : Byte) (w : Word) : List (Byte × Instr) :=
  [(0xB0, .bcs b1), (0xB1, .lda (.mem (.izy b1))), (0xB4, .ldy (.mem (.zpx b1))), (0xB5, .lda (.mem (.zpx b1))),
      (0xB6, .ldx (.mem (.zpy b1))), (0xB8, .clv), (0xB9, .lda (.mem (.absy w))), (0xBA, .tsx),
      (0xBC, .ldy (.mem (.absx w))), (0xBD, .lda (.mem (.absx w))),
      (0xBE, .ldx (.mem (.absy w)))]

/-- R157, R158: row Cx of the map, each opcode with the instruction it and its operand bytes stand for: `b1` is byte 1, `w` the word b2:b1. -/
def opcodeRowC (b1 : Byte) (w : Word) : List (Byte × Instr) :=
  [(0xC0, .cpy (.imm b1)), (0xC1, .cmp (.mem (.izx b1))), (0xC4, .cpy (.mem (.zp b1))), (0xC5, .cmp (.mem (.zp b1))),
      (0xC6, .dec (.zp b1)), (0xC8, .iny), (0xC9, .cmp (.imm b1)), (0xCA, .dex), (0xCC, .cpy (.mem (.abs w))),
      (0xCD, .cmp (.mem (.abs w))), (0xCE, .dec (.abs w))]

/-- R157, R158: row Dx of the map, each opcode with the instruction it and its operand bytes stand for: `b1` is byte 1, `w` the word b2:b1. -/
def opcodeRowD (b1 : Byte) (w : Word) : List (Byte × Instr) :=
  [(0xD0, .bne b1), (0xD1, .cmp (.mem (.izy b1))), (0xD5, .cmp (.mem (.zpx b1))), (0xD6, .dec (.zpx b1)), (0xD8, .cld),
      (0xD9, .cmp (.mem (.absy w))), (0xDD, .cmp (.mem (.absx w))),
      (0xDE, .dec (.absx w))]

/-- R157, R158: row Ex of the map, each opcode with the instruction it and its operand bytes stand for: `b1` is byte 1, `w` the word b2:b1. -/
def opcodeRowE (b1 : Byte) (w : Word) : List (Byte × Instr) :=
  [(0xE0, .cpx (.imm b1)), (0xE1, .sbc (.mem (.izx b1))), (0xE4, .cpx (.mem (.zp b1))), (0xE5, .sbc (.mem (.zp b1))),
      (0xE6, .inc (.zp b1)), (0xE8, .inx), (0xE9, .sbc (.imm b1)), (0xEA, .nop), (0xEC, .cpx (.mem (.abs w))),
      (0xED, .sbc (.mem (.abs w))), (0xEE, .inc (.abs w))]

/-- R157, R158: row Fx of the map, each opcode with the instruction it and its operand bytes stand for: `b1` is byte 1, `w` the word b2:b1. -/
def opcodeRowF (b1 : Byte) (w : Word) : List (Byte × Instr) :=
  [(0xF0, .beq b1), (0xF1, .sbc (.mem (.izy b1))), (0xF5, .sbc (.mem (.zpx b1))), (0xF6, .inc (.zpx b1)), (0xF8, .sed),
      (0xF9, .sbc (.mem (.absy w))), (0xFD, .sbc (.mem (.absx w))),
      (0xFE, .inc (.absx w))]

/-- R157, R158: the 151 legal opcodes. -/
def legalTable (b1 : Byte) (w : Word) : List (Byte × Instr) :=
  opcodeRow0 b1 w ++ opcodeRow1 b1 w ++ opcodeRow2 b1 w ++ opcodeRow3 b1 w
  ++ opcodeRow4 b1 w ++ opcodeRow5 b1 w ++ opcodeRow6 b1 w ++ opcodeRow7 b1 w
  ++ opcodeRow8 b1 w ++ opcodeRow9 b1 w ++ opcodeRowA b1 w ++ opcodeRowB b1 w
  ++ opcodeRowC b1 w ++ opcodeRowD b1 w ++ opcodeRowE b1 w ++ opcodeRowF b1 w

/-- R158, R159, R161: every opcode byte decodes, to its row of the table or to the illegal no-op. -/
def decodeByte (op b1 b2 : Byte) : Instr :=
  match (legalTable b1 (mkWord b2 b1)).lookup op with
  | some i => i
  | none => .nopIllegal op

/-- R140: the length of a memory mode's instruction. -/
def MemMode.length : MemMode → Nat
  | .zp _ | .zpx _ | .zpy _ | .izx _ | .izy _ => 2
  | .abs _ | .absx _ | .absy _ => 3

/-- R140: imm is 2 bytes. -/
def ReadOperand.length : ReadOperand → Nat
  | .imm _ => 2
  | .mem m => m.length

/-- R140: acc is 1 byte. -/
def ShiftOperand.length : ShiftOperand → Nat
  | .acc => 1
  | .mem m => m.length

/-- R140: an instruction's length in bytes, by its addressing mode. BRK is length 1 (R283), an illegal opcode length 1 (R159). -/
def Instr.length : Instr → Nat
  | .lda o | .ldx o | .ldy o | .adc o | .sbc o | .and o | .ora o | .eor o | .cmp o | .cpx o | .cpy o => o.length
  | .sta m | .stx m | .sty m | .bit m | .inc m | .dec m => m.length
  | .asl o | .lsr o | .rol o | .ror o => o.length
  | .bcc _ | .bcs _ | .beq _ | .bmi _ | .bne _ | .bpl _ | .bvc _ | .bvs _ => 2
  | .jmp _ | .jsr _ => 3
  | .tax | .tay | .txa | .tya | .tsx | .txs | .pha | .pla | .php | .plp => 1
  | .inx | .iny | .dex | .dey | .rts | .brk | .rti => 1
  | .clc | .sec | .cli | .sei | .cld | .sed | .clv | .nop | .nopIllegal _ => 1

/-- R140: "A decoder tells the length from the opcode alone". -/
def opcodeLength (op : Byte) : Nat := (decodeByte op 0 0).length

/-- Why a list of bytes decodes to nothing. Opcodes are never the reason (R161). -/
inductive DecodeError
  /-- The list ends before the instruction does: this many bytes are missing. -/
  | truncated (missing : Nat)
deriving DecidableEq, Repr

/-- What a list of bytes decodes to: an instruction and the bytes after it, or a rejection by name. -/
inductive Decoded
  | instr (i : Instr) (rest : List Byte)
  | rejected (e : DecodeError)
deriving DecidableEq, Repr

/-- R140, R141: decode the instruction at the head of a list of bytes. -/
def decode : List Byte → Decoded
  | [] => .rejected (.truncated 1)
  | op :: rest =>
    if rest.length + 1 < opcodeLength op then .rejected (.truncated (opcodeLength op - (rest.length + 1)))
    else .instr (decodeByte op (rest.getD 0 0) (rest.getD 1 0)) (rest.drop (opcodeLength op - 1))

/-- The opcode of a memory mode, from a rule's "Encoding" line; none for a mode the line does not list. -/
def MemMode.opcodeOf (zp zpx zpy abs absx absy izx izy : Option Byte) : MemMode → Option Byte
  | .zp _ => zp
  | .zpx _ => zpx
  | .zpy _ => zpy
  | .abs _ => abs
  | .absx _ => absx
  | .absy _ => absy
  | .izx _ => izx
  | .izy _ => izy

/-- The eight forms of an ALU read, in the order of the rules' "Encoding" lines: imm, zp, zpx, abs, absx, absy, izx, izy. -/
def ReadOperand.aluOpcode (imm zp zpx abs absx absy izx izy : Byte) : ReadOperand → Option Byte
  | .imm _ => some imm
  | .mem m => m.opcodeOf (some zp) (some zpx) none (some abs) (some absx) (some absy) (some izx) (some izy)

/-- The three forms of CPX and CPY: imm, zp, abs. -/
def ReadOperand.cpOpcode (imm zp abs : Byte) : ReadOperand → Option Byte
  | .imm _ => some imm
  | .mem m => m.opcodeOf (some zp) none none (some abs) none none none none

/-- The four memory forms of a read-modify-write instruction: zp, zpx, abs, absx. -/
def MemMode.rmwOpcode (zp zpx abs absx : Byte) (m : MemMode) : Option Byte :=
  m.opcodeOf (some zp) (some zpx) none (some abs) (some absx) none none none

/-- The five forms of a shift or rotate: acc, zp, zpx, abs, absx. -/
def ShiftOperand.opcodeOf (acc zp zpx abs absx : Byte) : ShiftOperand → Option Byte
  | .acc => some acc
  | .mem m => m.rmwOpcode zp zpx abs absx

/-- The opcode byte, from the "Encoding" line of each rule R200 to R308; none for a form no row has. -/
def Instr.opcode : Instr → Option Byte
  | .lda o => o.aluOpcode 0xA9 0xA5 0xB5 0xAD 0xBD 0xB9 0xA1 0xB1
  | .ldx (.imm _) => some 0xA2
  | .ldx (.mem m) => m.opcodeOf (some 0xA6) none (some 0xB6) (some 0xAE) none (some 0xBE) none none
  | .ldy (.imm _) => some 0xA0
  | .ldy (.mem m) => m.rmwOpcode 0xA4 0xB4 0xAC 0xBC
  | .sta m => m.opcodeOf (some 0x85) (some 0x95) none (some 0x8D) (some 0x9D) (some 0x99) (some 0x81) (some 0x91)
  | .stx m => m.opcodeOf (some 0x86) none (some 0x96) (some 0x8E) none none none none
  | .sty m => m.opcodeOf (some 0x84) (some 0x94) none (some 0x8C) none none none none
  | .tax => some 0xAA
  | .tay => some 0xA8
  | .txa => some 0x8A
  | .tya => some 0x98
  | .tsx => some 0xBA
  | .txs => some 0x9A
  | .pha => some 0x48
  | .pla => some 0x68
  | .php => some 0x08
  | .plp => some 0x28
  | .adc o => o.aluOpcode 0x69 0x65 0x75 0x6D 0x7D 0x79 0x61 0x71
  | .sbc o => o.aluOpcode 0xE9 0xE5 0xF5 0xED 0xFD 0xF9 0xE1 0xF1
  | .and o => o.aluOpcode 0x29 0x25 0x35 0x2D 0x3D 0x39 0x21 0x31
  | .ora o => o.aluOpcode 0x09 0x05 0x15 0x0D 0x1D 0x19 0x01 0x11
  | .eor o => o.aluOpcode 0x49 0x45 0x55 0x4D 0x5D 0x59 0x41 0x51
  | .bit m => m.opcodeOf (some 0x24) none none (some 0x2C) none none none none
  | .cmp o => o.aluOpcode 0xC9 0xC5 0xD5 0xCD 0xDD 0xD9 0xC1 0xD1
  | .cpx o => o.cpOpcode 0xE0 0xE4 0xEC
  | .cpy o => o.cpOpcode 0xC0 0xC4 0xCC
  | .inc m => m.rmwOpcode 0xE6 0xF6 0xEE 0xFE
  | .dec m => m.rmwOpcode 0xC6 0xD6 0xCE 0xDE
  | .inx => some 0xE8
  | .iny => some 0xC8
  | .dex => some 0xCA
  | .dey => some 0x88
  | .asl o => o.opcodeOf 0x0A 0x06 0x16 0x0E 0x1E
  | .lsr o => o.opcodeOf 0x4A 0x46 0x56 0x4E 0x5E
  | .rol o => o.opcodeOf 0x2A 0x26 0x36 0x2E 0x3E
  | .ror o => o.opcodeOf 0x6A 0x66 0x76 0x6E 0x7E
  | .bcc _ => some 0x90
  | .bcs _ => some 0xB0
  | .beq _ => some 0xF0
  | .bmi _ => some 0x30
  | .bne _ => some 0xD0
  | .bpl _ => some 0x10
  | .bvc _ => some 0x50
  | .bvs _ => some 0x70
  | .jmp (.abs _) => some 0x4C
  | .jmp (.ind _) => some 0x6C
  | .jsr _ => some 0x20
  | .rts => some 0x60
  | .brk => some 0x00
  | .rti => some 0x40
  | .clc => some 0x18
  | .sec => some 0x38
  | .cli => some 0x58
  | .sei => some 0x78
  | .cld => some 0xD8
  | .sed => some 0xF8
  | .clv => some 0xB8
  | .nop => some 0xEA
  | .nopIllegal op => some op

/-- R140, R82: a word operand is laid out low byte first. -/
def wordBytes (w : Word) : List Byte := [loByte w, hiByte w]

/-- The operand bytes of a memory mode (R140). -/
def MemMode.bytes : MemMode → List Byte
  | .zp b | .zpx b | .zpy b | .izx b | .izy b => [b]
  | .abs w | .absx w | .absy w => wordBytes w

/-- The operand bytes of a read operand. -/
def ReadOperand.bytes : ReadOperand → List Byte
  | .imm b => [b]
  | .mem m => m.bytes

/-- The operand bytes of a shift operand: none for the accumulator. -/
def ShiftOperand.bytes : ShiftOperand → List Byte
  | .acc => []
  | .mem m => m.bytes

/-- The bytes after the opcode (R140). -/
def Instr.operandBytes : Instr → List Byte
  | .lda o | .ldx o | .ldy o | .adc o | .sbc o | .and o | .ora o | .eor o | .cmp o | .cpx o | .cpy o => o.bytes
  | .sta m | .stx m | .sty m | .bit m | .inc m | .dec m => m.bytes
  | .asl o | .lsr o | .rol o | .ror o => o.bytes
  | .bcc b | .bcs b | .beq b | .bmi b | .bne b | .bpl b | .bvc b | .bvs b => [b]
  | .jmp (.abs w) | .jmp (.ind w) => wordBytes w
  | .jsr w => wordBytes w
  | .tax | .tay | .txa | .tya | .tsx | .txs | .pha | .pla | .php | .plp => []
  | .inx | .iny | .dex | .dey | .rts | .brk | .rti => []
  | .clc | .sec | .cli | .sei | .cld | .sed | .clv | .nop | .nopIllegal _ => []

/-- The bytes of a well-formed instruction, the opcode first; none for a form no row of the table has. -/
def encode (i : Instr) : List Byte :=
  match i.opcode with
  | some op => op :: i.operandBytes
  | none => []

/-- The three bytes of an instruction word numbered as spec/opcode_table.json numbers it: byte 0 in bits 7..0; bits from `nbits` up are 0. -/
def tableBytes (nbits w : Nat) : List Byte :=
  [BitVec.ofNat 8 (w % 2 ^ nbits), BitVec.ofNat 8 (w % 2 ^ nbits / 256), BitVec.ofNat 8 (w % 2 ^ nbits / 65536)]

/-- The instruction the decoder reads from a table word. -/
def decodeTableWord (nbits w : Nat) : Option Instr :=
  match decode (tableBytes nbits w) with
  | .instr i _ => some i
  | .rejected _ => none

end Sys2Proof
end

