-- ==== Sys2Proof/Config.lean ====
section
/-! DEFINITION. Sys2Proof/Config.lean: the parameters of R9 (table "Parameters" of spec/92_eei_decisions.md). Those with a default are a record of plain data that every State carries, so that a statement over all states holds for every value of them; those without one (MASTER_PALETTE, what the spec leaves open of MAPPER[n]) are constants with no body, so that no proof can use a value of them. -/

namespace Sys2Proof

/-- `TICK_MODEL` (D1, R402): how many `clock()` calls an instruction of n cycles occupies. -/
inductive TickModel
  | n
  | nPlus1
deriving DecidableEq, Repr, Inhabited

/-- `MAPPER_IRQ_RETENTION` (D6, R425). -/
inductive IrqRetention
  | drain
  | hold
deriving DecidableEq, Repr, Inhabited

/-- When the frame sequencer's count goes back to 0 (assumption 7, DESIGN CHOICE, safe over all states): R555 and R556 differ. -/
inductive FrameWrap
  /-- in the tick of its last step, as R555's pseudocode and vector V155 have it -/
  | atStep
  /-- in the tick after its last step, as the periods of R556 and R714 ask for -/
  | afterStep
deriving DecidableEq, Repr, Inhabited

/-- Whether an IRQ is entered at the boundary after BRK (assumption 28, DESIGN CHOICE, safe over all states): R405 and R406 differ from R283 and R409. -/
inductive BrkIrq
  /-- no: the I flag that BRK has set masks it, as the polls of R405 and R406 have it -/
  | masked
  /-- yes, when I was 0 before BRK, as R283 and R409 have it -/
  | entered
deriving DecidableEq, Repr, Inhabited

/-- R99, R595: the five mirroring modes. -/
inductive Mirroring
  | horizontal
  | vertical
  | singleScreenLow
  | singleScreenHigh
  | fourScreen
deriving DecidableEq, Repr, Inhabited

/-- R592, R596: the 18 mapper variants ("Model them as a tagged sum (18 variants, one per supported mapper)", R590). -/
inductive MapperVariant
  /-- 0, NROM -/
  | nrom
  /-- 1, MMC1 -/
  | mmc1
  /-- 2, UxROM -/
  | uxrom
  /-- 3, CNROM -/
  | cnrom
  /-- 4, MMC3 -/
  | mmc3
  /-- 7, AxROM -/
  | axrom
  /-- 11, Color Dreams -/
  | colorDreams
  /-- 15, 100-in-1 -/
  | multi100in1
  /-- 16, Bandai FCG -/
  | bandaiFcg
  /-- 23, VRC2/VRC4 -/
  | vrc24
  /-- 66, GxROM -/
  | gxrom
  /-- 71, Camerica -/
  | camerica
  /-- 113, NINA-03/06 -/
  | nina
  /-- 202, 150-in-1 -/
  | multi150in1
  /-- 225, 52-in-1 -/
  | multi52in1
  /-- 227, 1200-in-1 -/
  | multi1200in1
  /-- 245, Waixing MMC3 variant -/
  | waixingMmc3
  /-- 253, Waixing VRC4 variant -/
  | waixingVrc4
deriving DecidableEq, Repr, Inhabited

/-- The registers a mapper instance holds (R54: "a mapper instance"): those the lines of R596 to R599 name. A variant uses the ones
its line names (NROM none, R592), and `other` for any its line does not name (assumption 9, DESIGN CHOICE, safe). -/
structure MapperRegs where
  /-- R596: the PRG bank selected (UxROM, AxROM, Color Dreams, GxROM, Camerica, NINA, 227) -/
  prg : Nat
  /-- R596: the CHR bank selected (CNROM, Color Dreams, GxROM, NINA) -/
  chr : Nat
  /-- R596: the eight bank registers (MMC3, 245), the 1 KB CHR banks (16, 23); R598: `chr_low` (253) -/
  banks : List Nat
  /-- R598: `chr_high` (253) -/
  chrHigh : List Nat
  /-- R596: the PRG mode (MMC1: 4 variants), the mode bits (MMC3, 15, 23, 202), 0 for the 32 KB mode of 227 -/
  prgMode : Nat
  /-- R596: the CHR mode (MMC1: 2 variants) -/
  chrMode : Nat
  /-- R596: the "'last bank' select bit" (227) -/
  lastBank : Bool
  /-- R596: the bits written to the "Serial 5-write shift register" so far, oldest first (MMC1) -/
  serial : List Bool
  /-- R598: the `vlock` latch, true when locked (253) -/
  vlock : Bool
  /-- registers no line names -/
  other : List Nat
  /-- R597 `counter` (MMC3), R598 the signed CPU-cycle counter (Bandai FCG) -/
  irqCounter : Int
  /-- R597 `latch` -/
  irqLatch : Nat
  /-- R597 `reload_flag` -/
  irqReload : Bool
  /-- R597 `irq_enabled` -/
  irqEnabled : Bool
  /-- R596: what the "prescaled scanline IRQ" has counted towards its next clock (23) -/
  prescaler : Nat
  /-- R599: the one pending bit -/
  irqPending : Bool
deriving DecidableEq, Repr, Inhabited

/-- The registers of a mapper that has none set: NROM's (R592), R427's pending bit 0. -/
def MapperRegs.blank : MapperRegs :=
  { prg := 0, chr := 0, banks := [], chrHigh := [], prgMode := 0, chrMode := 0, lastBank := false, serial := [], vlock := false
    other := [], irqCounter := 0, irqLatch := 0, irqReload := false, irqEnabled := false, prescaler := 0, irqPending := false }

/-- R590: what a mapper's write-side call may return: "a new mirroring mode or an IRQ pulse". -/
structure WriteEffect where
  mirroring : Option Mirroring
  irqPulse : Bool
deriving DecidableEq, Repr, Inhabited

/-- A real parameter in (0, 1), as a quotient (table "Parameters": "reals in (0, 1)"). -/
structure Ratio where
  num : Nat
  den : Nat
deriving DecidableEq, Repr, Inhabited

/-- The parameters of R9 that have a default, as plain data carried by State. No step changes them; of the host calls only `load_state` does (assumptions 5 and 18). -/
structure Config where
  /-- `TICK_MODEL`, D1 -/
  tickModel : TickModel
  /-- `RESET_TOTAL_CYCLES`, D2 -/
  resetTotalCycles : Nat
  /-- `MAPPER_IRQ_RETENTION`, D6 -/
  mapperIrqRetention : IrqRetention
  /-- The model's own parameter (assumption 6, DESIGN CHOICE, safe): whether the `or` of R424 reads the mapper bit only when neither APU flag is set. -/
  irqOrShortCircuits : Bool
  /-- The model's own parameter (assumption 7, DESIGN CHOICE, safe): where R555 and R556 put the frame sequencer's wrap. -/
  frameWrap : FrameWrap
  /-- The model's own parameter (assumption 28, DESIGN CHOICE, safe): whether an IRQ pending at the end of BRK is entered there. -/
  brkIrq : BrkIrq
  /-- `RESET_AXY`, D11 (assumption 4: 0 in State.reset, DESIGN CHOICE, unsafe) -/
  resetA : Byte
  resetX : Byte
  resetY : Byte
  /-- `DMC_STALL`, D17 -/
  dmcStall : Nat
  /-- `NOISE_PERIOD_TABLE`, D35: 16 reload values -/
  noisePeriodTable : List Nat
  /-- `DMC_RATE_TABLE`, D35: 16 reload values -/
  dmcRateTable : List Nat
  /-- `LP_COEF`, D29 -/
  lpCoef : Ratio
  /-- `HP_COEF`, D29 -/
  hpCoef : Ratio
  /-- `RING_CAPACITY`, D29 -/
  ringCapacity : Nat
deriving DecidableEq, Repr

/-- The defaults of the table "Parameters" of spec/92_eei_decisions.md (assumption 5, DESIGN CHOICE, unsafe for a run from State.reset). -/
def Config.default : Config :=
  { tickModel := .n
    resetTotalCycles := 7
    mapperIrqRetention := .drain
    irqOrShortCircuits := true
    frameWrap := .atStep
    brkIrq := .masked
    resetA := 0
    resetX := 0
    resetY := 0
    dmcStall := 4
    noisePeriodTable := [1, 3, 7, 15, 31, 47, 63, 79, 100, 126, 189, 253, 380, 507, 1016, 2033]
    dmcRateTable := [213, 189, 169, 159, 142, 126, 112, 106, 94, 79, 70, 63, 52, 41, 35, 26]
    lpCoef := { num := 9, den := 10 }
    hpCoef := { num := 996, den := 1000 }
    ringCapacity := 8192 }

/-- `MASTER_PALETTE` (D32, R536): the 24-bit RGB value of each of the 64 colours. Open: no value is in any source (assumption 8, DESIGN CHOICE, safe). -/
opaque Config.masterPalette : BitVec 6 → BitVec 24

/-! `MAPPER[n]` (D31): what the lines of R596 to R598 leave open of it, as constants with no body (assumption 9, DESIGN CHOICE, safe).
What the lines say is in Sys2Proof/Machine/MapperBanks.lean. -/

/-- `cpu_map_read` where no line says it: variant, registers, PRG ROM size in bytes, CPU address. -/
opaque Config.mapperCpuMapRead : MapperVariant → MapperRegs → Nat → Word → Option Nat

/-- `cpu_map_write`: the mapper's registers after the write, those a line says aside. -/
opaque Config.mapperCpuMapWrite : MapperVariant → MapperRegs → Word → Byte → MapperRegs

/-- `cpu_map_write`: the `Option<WriteEffect>` it returns, a mirroring mode a line says aside. -/
opaque Config.mapperWriteEffect : MapperVariant → MapperRegs → Word → Byte → Option WriteEffect

/-- `ppu_map_read` where no line says it: variant, registers, CHR size in bytes, PPU address below $2000. -/
opaque Config.mapperPpuMapRead : MapperVariant → MapperRegs → Nat → PpuAddr → Option Nat

/-- `ppu_map_write` where no line says it. -/
opaque Config.mapperPpuMapWrite : MapperVariant → MapperRegs → Nat → PpuAddr → Option Nat

/-- R701: the power-on registers, which `reset()` restores. -/
opaque Config.mapperPowerOn : MapperVariant → MapperRegs

/-- The optional hook `scanline_tick()`. -/
opaque Config.mapperScanlineTick : MapperVariant → MapperRegs → MapperRegs

/-- The optional hook `cpu_tick()`. -/
opaque Config.mapperCpuTick : MapperVariant → MapperRegs → MapperRegs

/-- Which addresses reach a variant's select register, where its line does not say (7, 11, 15, 66, 71, 202). -/
opaque Config.mapperRegisterAt : MapperVariant → Word → Bool

/-- The PRG bank a data byte selects (7, 113). -/
opaque Config.mapperPrgSelect : MapperVariant → Byte → Nat

/-- The CHR bank a data byte selects (113). -/
opaque Config.mapperChrSelect : MapperVariant → Byte → Nat

/-- How many low data bits select the CHR bank (3, 66). -/
opaque Config.mapperChrBits : MapperVariant → Nat

/-- GxROM: how many data bits lie between the CHR bank's and the PRG bank's. -/
opaque Config.gxromGap : Nat

/-- GxROM: how many data bits select the PRG bank. -/
opaque Config.gxromPrgBits : Nat

/-- The size in bytes of the PRG bank selected (11, 66, 113). -/
opaque Config.mapperPrgBankSize : MapperVariant → Nat

/-- The size in bytes of the CHR bank selected (3, 11, 66, 113). -/
opaque Config.mapperChrBankSize : MapperVariant → Nat

/-- The PRG mode that an address's bits select (15, 202). -/
opaque Config.mapperAddressMode : MapperVariant → Word → Nat

/-- The data bit that selects the mirroring (7, 15, 71). -/
opaque Config.mapperMirrorBit : MapperVariant → Nat

/-- AxROM: the value of that bit that selects SingleScreenHigh; the other selects SingleScreenLow. -/
opaque Config.axromHighBit : Bool

/-- The mirroring mode that bit selects (15, 71). -/
opaque Config.mapperMirroringOf : MapperVariant → Bool → Mirroring

/-- The bank register that a write loads, and its new value, if any (4, 16, 245). -/
opaque Config.mapperBankWrite : MapperVariant → MapperRegs → Word → Byte → Option (Fin 8 × Nat)

/-- Mapper 23: the CHR bank a write reaches, whether its high nibble, and the nibble written, if any. -/
opaque Config.vrcNibbleWrite : MapperRegs → Word → Byte → Option (Fin 8 × Bool × BitVec 4)

/-- Mapper 23: whether `scanline_tick()`, and not `cpu_tick()`, drives the prescaler. -/
opaque Config.vrcByScanline : Bool

/-- Mapper 23: what a tick adds to the prescaler. -/
opaque Config.vrcPrescalerStep : MapperRegs → Nat

/-- Mapper 23: how far the prescaler counts before it clocks the IRQ counter. -/
opaque Config.vrcPrescalerPeriod : Nat

/-- Mapper 23: one clock of the IRQ counter. -/
opaque Config.vrcCounterClock : MapperRegs → MapperRegs

/-- MMC1: which addresses reach the serial register. -/
opaque Config.mmc1SerialAt : Word → Bool

/-- MMC1: a data byte that empties the serial register. -/
opaque Config.mmc1Restart : Byte → Bool

/-- MMC1: the data bit shifted in. -/
opaque Config.mmc1DataBit : Nat

/-- MMC1: whether a fifth write at this address loads the register of the modes. -/
opaque Config.mmc1ModesAt : Word → Bool

/-- MMC1: the PRG mode, one of 4, in the five bits. -/
opaque Config.mmc1PrgMode : List Bool → Fin 4

/-- MMC1: the CHR mode, one of 2, in the five bits. -/
opaque Config.mmc1ChrMode : List Bool → Fin 2

/-- MMC1: the mirroring, one of 4, in the five bits. -/
opaque Config.mmc1MirrorField : List Bool → Fin 4

/-- MMC1: the mode each of the four stands for. -/
opaque Config.mmc1Mirroring : Fin 4 → Mirroring

/-- Mapper 227: the bank at $C000 in a 16 KB mode: `lastBank`, the bank selected, PRG ROM size. -/
opaque Config.upperBank227 : Bool → Nat → Nat → Nat

/-- Mapper 253: which addresses reach a CHR register. -/
opaque Config.waixingChrAt : Word → Bool

/-- Mapper 253: which of the two readings of the index holds (spec/93_implementation_defined.md): true (a), false (b). -/
opaque Config.waixingReadingA : Bool

/-- Mapper 253: `chr_low` after a write: its old value, address, data. -/
opaque Config.waixingChrLow : Nat → Word → Byte → Nat

/-- Mapper 253: whether a write at this address stores `chr_high`. -/
opaque Config.waixingHighAt : Word → Bool

/-- Mapper 253: the 1 KB bank that `chr_low` and `chr_high` name. -/
opaque Config.waixingBank : Nat → Nat → Nat

/-- Mapper 253: the offset in the appended CHR RAM: `chr_low`, PPU address. -/
opaque Config.waixingRamOffset : Nat → PpuAddr → Nat

end Sys2Proof
end

