-- ==== Sys2Proof/Machine/State.lean ====
section
/-! DEFINITION. Sys2Proof/Machine/State.lean: everything the spec gives the machine (10_state.md, 61_platform_devices.md R501, R540, R591), as plain data, the ways a step can stop, and the machine right after reset. -/

namespace Sys2Proof.Machine

/-- A memory (RAM, ROM, nametables, palette, OAM): the listed bytes by index, indexes strictly rising, no listed byte $00, and every
unlisted byte $00 (assumption 12, DESIGN CHOICE, unsafe; R46, R501, R591: RAM, nametable, palette, OAM, PRG RAM and CHR RAM are $00 before anything is written). -/
abbrev Memory := List Host.Cell

/-- The frame buffer: the listed pixels by index, indexes strictly rising; an unlisted pixel is 0 (R501). -/
abbrev FrameBuffer := List (Nat × BitVec 32)

/-- The CPU's registers and pacing counters (R30 to R35, R40, R41). -/
structure Cpu where
  /-- R30 -/
  a : Byte
  /-- R31 -/
  x : Byte
  /-- R32 -/
  y : Byte
  /-- R33 -/
  sp : Byte
  /-- R34 -/
  pc : Word
  /-- R35: N V U B D I Z C, bits 7 to 0 -/
  p : Byte
  /-- R40 -/
  cyclesRemaining : Nat
  /-- R41 -/
  totalCycles : Nat
  /-- The model's own (assumption 28, DESIGN CHOICE, safe): the last instruction was a BRK executed with I = 0, and no interrupt has been entered since. -/
  brkUnmasked : Bool
deriving DecidableEq, Repr

/-- One of the "eight sprite shift-register pairs" (R52), with the attribute and x counter of R531. -/
structure SpriteUnit where
  lo : Byte
  hi : Byte
  attr : Byte
  x : Byte
deriving DecidableEq, Repr

/-- A sprite unit with every register 0 (R501: the "shifters"; that `attr` is among them is assumption 29, DESIGN CHOICE, unsafe). -/
def SpriteUnit.clear : SpriteUnit := { lo := 0, hi := 0, attr := 0, x := 0 }

/-- The PPU (R52, R501, R521, R530). -/
structure Ppu where
  /-- R502 -/
  ctrl : Byte
  /-- R504 -/
  mask : Byte
  /-- R505; only bits 7, 6, 5 are ever set -/
  status : Byte
  /-- R509: the current VRAM address -/
  v : BitVec 15
  /-- R509: the temporary VRAM address -/
  t : BitVec 15
  fineX : BitVec 3
  /-- the write latch of R509 -/
  w : Bool
  /-- the $2007 read buffer of R510 -/
  dataBuffer : Byte
  /-- R507 -/
  oamAddr : Byte
  /-- R99: 2 KB, 4 KB under FourScreen -/
  nametable : Memory
  /-- R100: 32 bytes -/
  palette : Memory
  /-- R101: 256 bytes -/
  oam : Memory
  /-- R530: 32 bytes -/
  secondaryOam : Memory
  bgLo : BitVec 16
  bgHi : BitVec 16
  atLo : Byte
  atHi : Byte
  atLatchLo : Bool
  atLatchHi : Bool
  ntNext : Byte
  atNext : BitVec 2
  loNext : Byte
  hiNext : Byte
  /-- eight units -/
  sprites : List SpriteUnit
  spriteCount : Nat
  sprite0Next : Bool
  sprite0Line : Bool
  /-- -1 to 260 -/
  scanline : Int
  /-- 0 to 340 -/
  cycle : Nat
  oddFrame : Bool
  frameBuffer : FrameBuffer
  frameComplete : Bool
  /-- R420 -/
  nmiPending : Bool
  /-- R537 -/
  scanlineIrqFlag : Bool
deriving DecidableEq, Repr

/-- R501: the PPU after `reset()`. That `attr`, `sprite0_next` and `sprite0_line` are 0 too is no line's (assumption 29, DESIGN CHOICE, unsafe). -/
def Ppu.reset : Ppu :=
  { ctrl := 0, mask := 0, status := 0, v := 0, t := 0, fineX := 0, w := false, dataBuffer := 0, oamAddr := 0
    nametable := [], palette := [], oam := [], secondaryOam := []
    bgLo := 0, bgHi := 0, atLo := 0, atHi := 0, atLatchLo := false, atLatchHi := false
    ntNext := 0, atNext := 0, loNext := 0, hiNext := 0
    sprites := List.replicate 8 SpriteUnit.clear, spriteCount := 0, sprite0Next := false, sprite0Line := false
    scanline := 0, cycle := 0, oddFrame := false, frameBuffer := [], frameComplete := false
    nmiPending := false, scanlineIrqFlag := false }

/-- The envelope unit of a pulse or noise channel (R540, R543). -/
structure Envelope where
  start : Bool
  divider : Nat
  decay : Nat
  constant : Bool
  volume : BitVec 4
deriving DecidableEq, Repr

/-- R540: the envelope after `reset()`. -/
def Envelope.reset : Envelope := { start := false, divider := 0, decay := 0, constant := false, volume := 0 }

/-- The sweep unit of a pulse channel (R540, R544). -/
structure Sweep where
  enable : Bool
  period : BitVec 3
  negate : Bool
  shift : BitVec 3
  divider : Nat
  reload : Bool
deriving DecidableEq, Repr

/-- R540: the sweep after `reset()`. -/
def Sweep.reset : Sweep := { enable := false, period := 0, negate := false, shift := 0, divider := 0, reload := false }

/-- A pulse channel (R540 to R545). -/
structure Pulse where
  duty : BitVec 2
  seqPos : BitVec 3
  timerPeriod : BitVec 11
  timer : BitVec 11
  length : Nat
  /-- length halt and envelope loop -/
  halt : Bool
  envelope : Envelope
  sweep : Sweep
deriving DecidableEq, Repr

/-- R540: a pulse channel after `reset()`. -/
def Pulse.reset : Pulse :=
  { duty := 0, seqPos := 0, timerPeriod := 0, timer := 0, length := 0, halt := false
    envelope := Envelope.reset, sweep := Sweep.reset }

/-- The triangle channel (R540, R546). -/
structure Triangle where
  timerPeriod : BitVec 11
  timer : BitVec 11
  seqPos : BitVec 5
  length : Nat
  /-- control, also the length halt -/
  control : Bool
  linearReload : BitVec 7
  linear : Nat
  linearReloadFlag : Bool
deriving DecidableEq, Repr

/-- R540: the triangle after `reset()`. -/
def Triangle.reset : Triangle :=
  { timerPeriod := 0, timer := 0, seqPos := 0, length := 0, control := false, linearReload := 0, linear := 0
    linearReloadFlag := false }

/-- The noise channel (R540, R547). -/
structure Noise where
  periodIndex : BitVec 4
  timer : Nat
  lfsr : BitVec 15
  mode : Bool
  length : Nat
  halt : Bool
  envelope : Envelope
deriving DecidableEq, Repr

/-- R540: the noise channel after `reset()`. -/
def Noise.reset : Noise :=
  { periodIndex := 0, timer := 0, lfsr := 1, mode := false, length := 0, halt := false, envelope := Envelope.reset }

/-- The delta modulation channel (R540, R548, R549). -/
structure Dmc where
  irqEnable : Bool
  loop : Bool
  rateIndex : BitVec 4
  timer : Nat
  level : BitVec 7
  sampleAddr : Word
  sampleLen : Nat
  currentAddr : Word
  bytesRemaining : Nat
  shift : Byte
  bitsRemaining : Nat
  silence : Bool
  /-- R422: `dmc_irq` -/
  irq : Bool
deriving DecidableEq, Repr

/-- R540: the DMC after `reset()`. -/
def Dmc.reset : Dmc :=
  { irqEnable := false, loop := false, rateIndex := 0, timer := 0, level := 0, sampleAddr := 0xC000, sampleLen := 1
    currentAddr := 0xC000, bytesRemaining := 0, shift := 0, bitsRemaining := 8, silence := true, irq := false }

/-- The frame counter (R540, R554, R555). -/
structure FrameCounter where
  /-- false: 4-step, true: 5-step -/
  fiveStep : Bool
  inhibit : Bool
  frameCycle : Nat
  /-- R421: `frame_irq` -/
  irq : Bool
deriving DecidableEq, Repr

/-- R540: the frame counter after `reset()`. -/
def FrameCounter.reset : FrameCounter := { fiveStep := false, inhibit := false, frameCycle := 0, irq := false }

/-- The audio output chain (R559 to R561). -/
structure Audio where
  /-- the resampler accumulator of R560 -/
  acc : F64
  /-- the low-pass state of R559 -/
  lp : F64
  lpPrev : F64
  /-- the high-pass state of R559 -/
  hp : F64
  /-- R561: the samples not yet read, oldest first -/
  ring : List F64
  /-- R560: `SAMPLE_RATE`, set by the host -/
  sampleRate : Nat
deriving DecidableEq, Repr

/-- R540: resampler accumulator 0, ring empty, filter states 0; `reset()` keeps the sample rate (R700). -/
def Audio.reset (sampleRate : Nat) : Audio :=
  { acc := F64.zero, lp := F64.zero, lpPrev := F64.zero, hp := F64.zero, ring := [], sampleRate := sampleRate }

/-- The APU (R53, R540). -/
structure Apu where
  pulse1 : Pulse
  pulse2 : Pulse
  triangle : Triangle
  noise : Noise
  dmc : Dmc
  /-- `enable[0..4]` -/
  enable : BitVec 5
  frame : FrameCounter
  tickCount : Nat
  audio : Audio
deriving DecidableEq, Repr

/-- R540: the APU after `reset()`. -/
def Apu.reset (sampleRate : Nat) : Apu :=
  { pulse1 := Pulse.reset, pulse2 := Pulse.reset, triangle := Triangle.reset, noise := Noise.reset, dmc := Dmc.reset
    enable := 0, frame := FrameCounter.reset, tickCount := 0, audio := Audio.reset sampleRate }

/-- The parsed iNES header (R54, R600, R604). -/
structure Header where
  prgBanks : Byte
  chrBanks : Byte
  mapper : Byte
  mirroring : Mirroring
  battery : Bool
  trainer : Bool
  nes2 : Bool
deriving DecidableEq, Repr

/-- The cartridge (R54). -/
structure Cartridge where
  header : Header
  variant : MapperVariant
  /-- the bytes of the PRG ROM, by offset; `prgSize` of them -/
  prgRom : Memory
  prgSize : Nat
  /-- the bytes of the CHR ROM or CHR RAM, by offset; `chrSize` of them -/
  chr : Memory
  chrSize : Nat
  /-- the first offset of `chr` that is RAM: 0 for a CHR RAM cartridge, `chrSize` for a CHR ROM one, the CHR ROM's size for mapper 253 (R594) -/
  chrRamFrom : Nat
  /-- R593: 8 KB at $6000-$7FFF -/
  prgRam : Memory
  /-- R595 -/
  mirroring : Mirroring
  mapper : MapperRegs
deriving DecidableEq, Repr

/-- An NROM cartridge of 32 KB PRG ROM, CHR RAM and horizontal mirroring, no byte of it other than $00 (assumption 3, DESIGN CHOICE, unsafe). -/
def Cartridge.blank : Cartridge :=
  { header := { prgBanks := 2, chrBanks := 0, mapper := 0, mirroring := .horizontal, battery := false, trainer := false, nes2 := false }
    variant := .nrom, prgRom := [], prgSize := 32768, chr := [], chrSize := 8192, chrRamFrom := 0, prgRam := []
    mirroring := .horizontal, mapper := MapperRegs.blank }

/-- The controllers (R47). -/
structure Controllers where
  buttons1 : Byte
  buttons2 : Byte
  shift1 : Byte
  shift2 : Byte
deriving DecidableEq, Repr

/-- The OAM-DMA state (R48). -/
structure Dma where
  page : Byte
  addr : Byte
  data : Byte
  transferring : Bool
  dummy : Bool
deriving DecidableEq, Repr

/-- R48: idle, dummy set. -/
def Dma.reset : Dma := { page := 0, addr := 0, data := 0, transferring := false, dummy := true }

/-- The whole System (R3). -/
structure State where
  cpu : Cpu
  /-- R46: internal RAM, 2048 bytes -/
  ram : Memory
  ppu : Ppu
  apu : Apu
  cart : Cartridge
  pads : Controllers
  dma : Dma
  /-- R44 -/
  dmcStall : Nat
  /-- R42 -/
  masterCount : Nat
  /-- R43 -/
  cpuTickCount : Nat
  /-- R710: whether a `load_rom` has succeeded; before that the System is empty -/
  romLoaded : Bool
  /-- R9: the parameters -/
  config : Config
deriving DecidableEq, Repr

/-- How a step stops with a fault. There is none: "The CPU raises no synchronous exception. No instruction and no access can fault"
(R400), and "`run_frame` is total (never fails) once the System is loaded". -/
inductive Fault
deriving DecidableEq, Repr

/-- Why the machine refuses to step. -/
inductive Refusal
  /-- An instruction that has no meaning in the model yet, by its mnemonic; raised by exec's arms only (none is left). Safe. -/
  | notModelled (mnemonic : String)
  /-- R711, D55: the System is empty; raised by step before the first successful load_rom. Safe: the spec names this refusal. -/
  | noRomLoaded
deriving DecidableEq, Repr

/-- R700, R701: the System right after `reset()`, with the default parameters, no button held, the sample rate 44100 (R560) and the
blank cartridge of assumption 3 (DESIGN CHOICE, unsafe), whose reset vector reads $0000. -/
def State.reset : State :=
  { cpu := { a := Config.default.resetA, x := Config.default.resetX, y := Config.default.resetY, sp := 0xFD, pc := 0x0000, p := 0x24
             cyclesRemaining := 8, totalCycles := Config.default.resetTotalCycles, brkUnmasked := false }
    ram := [], ppu := Ppu.reset, apu := Apu.reset 44100, cart := Cartridge.blank
    pads := { buttons1 := 0, buttons2 := 0, shift1 := 0, shift2 := 0 }
    dma := Dma.reset, dmcStall := 0, masterCount := 0, cpuTickCount := 0, romLoaded := true, config := Config.default }

end Sys2Proof.Machine
end

