-- ==== Sys2Proof/Machine/ApuRegs.lean ====
section
/-! DEFINITION. Sys2Proof/Machine/ApuRegs.lean: the APU registers $4000-$4013, $4015 and $4017 (R541, R545 to R548, R552 to R554) and the quarter-frame and half-frame clocks (R543 to R546, R555). -/

namespace Sys2Proof.Machine

/-- R545: LENGTH_TABLE. -/
def lengthTable : List Nat :=
  [10, 254, 20, 2, 40, 4, 80, 6, 160, 8, 60, 10, 14, 12, 26, 14]
  ++ [12, 16, 24, 18, 48, 20, 96, 22, 192, 24, 72, 26, 16, 28, 32, 30]

/-- R545: the length loaded by a write of d (index in bits 7:3), when the channel is enabled. -/
def loadLength (enabled : Bool) (d : Byte) (length : Nat) : Nat :=
  if enabled then lengthTable.getD (getField d 3 5).toNat 0 else length

/-- The constant and volume fields of a fourth-register write (R541 k=0, R547 $400C). -/
def writeEnvelope (d : Byte) (e : Envelope) : Envelope := { e with constant := bitAt d 4, volume := getField d 0 4 }

/-- R541: a write of register k = 0..3 of a pulse channel. -/
def writePulse (k : Nat) (d : Byte) (enabled : Bool) (p : Pulse) : Pulse :=
  match k with
  | 0 => { p with duty := getField d 6 2, halt := bitAt d 5, envelope := writeEnvelope d p.envelope }
  | 1 =>
    { p with
      sweep := { p.sweep with
        enable := bitAt d 7, period := getField d 4 3, negate := bitAt d 3, shift := getField d 0 3, reload := true } }
  | 2 => { p with timerPeriod := putField p.timerPeriod 0 d }
  | _ =>
    { p with
      timerPeriod := putField p.timerPeriod 8 (getField d 0 3)
      length := loadLength enabled d p.length
      envelope := { p.envelope with start := true }
      seqPos := 0 }

/-- R546: a write of $4008 + k; $4009 is unused. -/
def writeTriangle (k : Nat) (d : Byte) (enabled : Bool) (t : Triangle) : Triangle :=
  match k with
  | 0 => { t with control := bitAt d 7, linearReload := getField d 0 7 }
  | 1 => t
  | 2 => { t with timerPeriod := putField t.timerPeriod 0 d }
  | _ =>
    { t with
      timerPeriod := putField t.timerPeriod 8 (getField d 0 3)
      length := loadLength enabled d t.length
      linearReloadFlag := true }

/-- R547: a write of $400C + k; $400D is unused. -/
def writeNoise (k : Nat) (d : Byte) (enabled : Bool) (n : Noise) : Noise :=
  match k with
  | 0 => { n with halt := bitAt d 5, envelope := writeEnvelope d n.envelope }
  | 1 => n
  | 2 => { n with mode := bitAt d 7, periodIndex := getField d 0 4 }
  | _ => { n with length := loadLength enabled d n.length, envelope := { n.envelope with start := true } }

/-- R548: a write of $4010 + k. -/
def writeDmc (k : Nat) (d : Byte) (c : Dmc) : Dmc :=
  match k with
  | 0 => { c with irqEnable := bitAt d 7, loop := bitAt d 6, rateIndex := getField d 0 4, irq := c.irq && bitAt d 7 }
  | 1 => { c with level := getField d 0 7 }
  | 2 => { c with sampleAddr := 0xC000 ||| (zext16 d <<< 6) }
  | _ => { c with sampleLen := d.toNat * 16 + 1 }

/-- R552: the DMC part of a $4015 write: bit 4, and the IRQ flag cleared. -/
def enableDmc (on : Bool) (c : Dmc) : Dmc :=
  if on then
    if c.bytesRemaining = 0 then { c with currentAddr := c.sampleAddr, bytesRemaining := c.sampleLen, irq := false }
    else { c with irq := false }
  else { c with bytesRemaining := 0, irq := false }

/-- R552: write $4015. -/
def writeApuStatus (d : Byte) (a : Apu) : Apu :=
  { a with
    enable := getField d 0 5
    pulse1 := if bitAt d 0 then a.pulse1 else { a.pulse1 with length := 0 }
    pulse2 := if bitAt d 1 then a.pulse2 else { a.pulse2 with length := 0 }
    triangle := if bitAt d 2 then a.triangle else { a.triangle with length := 0 }
    noise := if bitAt d 3 then a.noise else { a.noise with length := 0 }
    dmc := enableDmc (bitAt d 4) a.dmc }

/-- R553: the byte a read of $4015 returns; bit 5 is 0. -/
def apuStatusByte (a : Apu) : Byte :=
  BitVec.ofBool a.dmc.irq ++ BitVec.ofBool a.frame.irq ++ (0 : BitVec 1) ++ BitVec.ofBool (a.dmc.bytesRemaining != 0)
    ++ BitVec.ofBool (a.noise.length != 0) ++ BitVec.ofBool (a.triangle.length != 0)
    ++ BitVec.ofBool (a.pulse2.length != 0) ++ BitVec.ofBool (a.pulse1.length != 0)

/-- R553: "Reading clears the frame-IRQ flag." -/
def clearFrameIrq (a : Apu) : Apu := { a with frame := { a.frame with irq := false } }

/-- R543: the envelope on a quarter-frame clock. -/
def clockEnvelope (halt : Bool) (e : Envelope) : Envelope :=
  if e.start then { e with start := false, decay := 15, divider := e.volume.toNat }
  else if e.divider = 0 then
    { e with
      divider := e.volume.toNat
      decay := if 0 < e.decay then e.decay - 1 else if halt then 15 else e.decay }
  else { e with divider := e.divider - 1 }

/-- R543: the envelope's output. -/
def envelopeOutput (e : Envelope) : Nat := if e.constant then e.volume.toNat else e.decay

/-- R544: the sweep target; pulse 1 negates in one's complement, pulse 2 in two's, and a negative target is read as 0. -/
def sweepTarget (isPulse1 : Bool) (p : Pulse) : Nat :=
  let period := p.timerPeriod.toNat
  let change := period / 2 ^ p.sweep.shift.toNat
  if p.sweep.negate then period - change - bitNat isPulse1 else period + change

/-- R544: `muted`. -/
def sweepMuted (isPulse1 : Bool) (p : Pulse) : Bool := decide (p.timerPeriod.toNat < 8 ∨ 0x7FF < sweepTarget isPulse1 p)

/-- R544: the sweep on a half-frame clock. -/
def clockSweep (isPulse1 : Bool) (p : Pulse) : Pulse :=
  let s := p.sweep
  let update := s.divider = 0 ∧ s.enable ∧ s.shift ≠ 0 ∧ !sweepMuted isPulse1 p
  { p with
    timerPeriod := if update then BitVec.ofNat 11 (sweepTarget isPulse1 p) else p.timerPeriod
    sweep :=
      if s.divider = 0 ∨ s.reload then { s with divider := s.period.toNat, reload := false }
      else { s with divider := s.divider - 1 } }

/-- R545: a length counter on a half-frame clock. -/
def clockLength (halt : Bool) (length : Nat) : Nat := if 0 < length ∧ !halt then length - 1 else length

/-- R546: the linear counter on a quarter-frame clock. -/
def clockLinear (t : Triangle) : Triangle :=
  { t with
    linear := if t.linearReloadFlag then t.linearReload.toNat else if 0 < t.linear then t.linear - 1 else t.linear
    linearReloadFlag := if t.control then t.linearReloadFlag else false }

/-- R555 `QuarterFrame()`: "envelopes + triangle linear counter". -/
def quarterFrame (a : Apu) : Apu :=
  { a with
    pulse1 := { a.pulse1 with envelope := clockEnvelope a.pulse1.halt a.pulse1.envelope }
    pulse2 := { a.pulse2 with envelope := clockEnvelope a.pulse2.halt a.pulse2.envelope }
    noise := { a.noise with envelope := clockEnvelope a.noise.halt a.noise.envelope }
    triangle := clockLinear a.triangle }

/-- R545: a pulse channel's length counter. -/
def clockPulseLength (p : Pulse) : Pulse := { p with length := clockLength p.halt p.length }

/-- R555 `HalfFrame()`: "length counters + sweep units". -/
def halfFrame (a : Apu) : Apu :=
  { a with
    pulse1 := clockSweep true (clockPulseLength a.pulse1)
    pulse2 := clockSweep false (clockPulseLength a.pulse2)
    triangle := { a.triangle with length := clockLength a.triangle.control a.triangle.length }
    noise := { a.noise with length := clockLength a.noise.halt a.noise.length } }

/-- R554: write $4017. -/
def writeFrameCounter (d : Byte) (a : Apu) : Apu :=
  let a1 : Apu :=
    { a with frame := { fiveStep := bitAt d 7, inhibit := bitAt d 6, frameCycle := 0, irq := a.frame.irq && !bitAt d 6 } }
  if bitAt d 7 then halfFrame (quarterFrame a1) else a1

/-- R92, R541 to R548: a write of $4000 + k, k = 0..$13. -/
def writeApuChannel (k : Nat) (d : Byte) (a : Apu) : Apu :=
  if k < 4 then { a with pulse1 := writePulse k d (bitAt a.enable 0) a.pulse1 }
  else if k < 8 then { a with pulse2 := writePulse (k - 4) d (bitAt a.enable 1) a.pulse2 }
  else if k < 12 then { a with triangle := writeTriangle (k - 8) d (bitAt a.enable 2) a.triangle }
  else if k < 16 then { a with noise := writeNoise (k - 12) d (bitAt a.enable 3) a.noise }
  else { a with dmc := writeDmc (k - 16) d a.dmc }

end Sys2Proof.Machine
end

