-- ==== Sys2Proof/Machine/Float64.lean ====
section
/-! DEFINITION. Sys2Proof/Machine/Float64.lean: binary64 arithmetic on finite numbers (R558, D29), every result rounded to nearest, ties to even: 53 bits of significand, 2^-1074 the smallest step. Overflow is not represented (assumption 16, PRESUMED, unsafe). -/

namespace Sys2Proof.Machine

/-- The magnitude p/q (in units of 2^-1074) rounded to a binary64 magnitude. -/
def roundUnits (p q : Nat) : Nat :=
  let step := 2 ^ (Nat.log2 (p / q) + 1 - 53)
  let d := q * step
  let down := p / d
  let r := p % d
  (if 2 * r > d ∨ (2 * r = d ∧ down % 2 = 1) then down + 1 else down) * step

/-- The number in units of 2^-1074, signed. -/
def f64Int (a : F64) : Int := if a.neg then - (a.units : Int) else a.units

/-- -a. -/
def f64Neg (a : F64) : F64 := { a with neg := !a.neg }

/-- |a|. -/
def f64Abs (a : F64) : F64 := { a with neg := false }

/-- a + b: an exact zero sum is +0 unless both are -0. -/
def f64Add (a b : F64) : F64 :=
  let s := f64Int a + f64Int b
  if s = 0 then { neg := a.neg && b.neg, units := 0 }
  else { neg := s < 0, units := roundUnits s.natAbs 1 }

/-- a - b. -/
def f64Sub (a b : F64) : F64 := f64Add a (f64Neg b)

/-- a * b. -/
def f64Mul (a b : F64) : F64 :=
  { neg := a.neg != b.neg, units := roundUnits (a.units * b.units) (2 ^ 1074) }

/-- a / b, for b other than 0. -/
def f64Div (a b : F64) : F64 :=
  { neg := a.neg != b.neg, units := if b.units = 0 then 0 else roundUnits (a.units * 2 ^ 1074) b.units }

/-- a <= b. -/
def f64Le (a b : F64) : Bool := f64Int a ≤ f64Int b

/-- The binary64 number nearest p/q, for q other than 0. -/
def f64OfRatio (p q : Nat) : F64 := { neg := false, units := roundUnits (p * 2 ^ 1074) q }

/-- The binary64 number nearest n. -/
def f64OfNat (n : Nat) : F64 := f64OfRatio n 1

/-- The largest natural number not above a, for a not negative. -/
def f64Floor (a : F64) : Nat := a.units / 2 ^ 1074

end Sys2Proof.Machine
end

