-- ==== Sys2Proof/Machine/Audio.lean ====
section
/-! DEFINITION. Sys2Proof/Machine/Audio.lean: the channel outputs (R542, R546, R547, R549, R550), the mixer (R558), the output chain (R559), the resampler (R560) and the ring buffer (R561). -/

namespace Sys2Proof.Machine

/-- R542: the duty sequences, indexed by seq_pos. -/
def dutyTable : List (List Nat) :=
  [[0, 1, 0, 0, 0, 0, 0, 0], [0, 1, 1, 0, 0, 0, 0, 0], [0, 1, 1, 1, 1, 0, 0, 0], [1, 0, 0, 1, 1, 1, 1, 1]]

/-- R542: a pulse channel's output, 0..15. -/
def pulseOutput (isPulse1 : Bool) (p : Pulse) : Nat :=
  if p.length = 0 ∨ (dutyTable.getD p.duty.toNat []).getD p.seqPos.toNat 0 = 0 ∨ sweepMuted isPulse1 p then 0
  else envelopeOutput p.envelope

/-- R546: TRI_SEQ. -/
def triangleSequence : List Nat :=
  [15, 14, 13, 12, 11, 10, 9, 8, 7, 6, 5, 4, 3, 2, 1, 0] ++ [0, 1, 2, 3, 4, 5, 6, 7, 8, 9, 10, 11, 12, 13, 14, 15]

/-- R546: the triangle's output: 7 for a period below 2. -/
def triangleOutput (t : Triangle) : Nat :=
  if t.timerPeriod.toNat < 2 then 7 else triangleSequence.getD t.seqPos.toNat 0

/-- R547: the noise channel's output. -/
def noiseOutput (n : Noise) : Nat :=
  if n.length = 0 ∨ bitAt n.lfsr 0 then 0 else envelopeOutput n.envelope

/-- R549: the DMC's output, 0..127. -/
def dmcOutput (d : Dmc) : Nat := d.level.toNat

/-- R558: `pulse_out` for p1 + p2 = n. -/
def pulseMix (n : Nat) : F64 :=
  if n = 0 then F64.zero
  else f64Div (f64OfRatio 9588 100) (f64Add (f64Div (f64OfNat 8128) (f64OfNat n)) (f64OfNat 100))

/-- R558: `tnd_out`. -/
def tndMix (t n d : Nat) : F64 :=
  let s := f64Add (f64Add (f64Div (f64OfNat t) (f64OfNat 8227)) (f64Div (f64OfNat n) (f64OfNat 12241)))
    (f64Div (f64OfNat d) (f64OfNat 22638))
  if s.units = 0 then F64.zero
  else f64Div (f64OfRatio 15979 100) (f64Add (f64Div (f64OfNat 1) s) (f64OfNat 100))

/-- R558: `mix` of the five channel outputs of R550. -/
def mixSample (p1 p2 t n d : Nat) : F64 := f64Add (pulseMix (p1 + p2)) (tndMix t n d)

/-- R550, R558: the APU's mixed sample. -/
def apuMix (a : Apu) : F64 :=
  mixSample (pulseOutput true a.pulse1) (pulseOutput false a.pulse2) (triangleOutput a.triangle) (noiseOutput a.noise)
    (dmcOutput a.dmc)

/-- A coefficient as a binary64 number. -/
def coef (r : Ratio) : F64 := f64OfRatio r.num r.den

/-- 1 - the coefficient, as a binary64 number: the difference is the reals', rounded once (assumption 15, DEDUCED from V161, unsafe). -/
def coefRest (r : Ratio) : F64 := f64OfRatio (r.den - r.num) r.den

/-- R559: the low-pass and high-pass filters on a sample x. -/
def filterStep (cfg : Config) (x : F64) (u : Audio) : Audio :=
  let lp := f64Add (f64Mul (coef cfg.lpCoef) u.lp) (f64Mul (coefRest cfg.lpCoef) x)
  let hp := f64Mul (coef cfg.hpCoef) (f64Sub (f64Add u.hp lp) u.lpPrev)
  { u with lp := lp, hp := hp, lpPrev := lp }

/-- R559: "linear below |0.95|, 5× compression above". -/
def softClip (hp : F64) : F64 :=
  let knee := f64OfRatio 95 100
  let h := f64Abs hp
  if f64Le h knee then hp
  else { f64Add knee (f64Div (f64Sub h knee) (f64OfNat 5)) with neg := hp.neg }

/-- R559: "hard-clip to [-1, 1]". -/
def hardClip (y : F64) : F64 :=
  if f64Le (f64Abs y) (f64OfNat 1) then y else { f64OfNat 1 with neg := y.neg }

/-- R561: RingPush: on a full ring the oldest sample is discarded. -/
def ringPush (capacity : Nat) (ring : List F64) (x : F64) : List F64 :=
  if ring.length < capacity then ring ++ [x] else ring.drop (ring.length + 1 - capacity) ++ [x]

/-- R560: CPU_HZ. -/
def cpuHz : Nat := 1789773

/-- R560: "cycles-per-sample". -/
def cyclesPerSample (rate : Nat) : F64 := f64Div (f64OfNat cpuHz) (f64OfNat rate)

/-- R559: one sample through the output chain and into the ring. -/
def emitSample (cfg : Config) (x : F64) (u : Audio) : Audio :=
  let u1 := filterStep cfg x u
  { u1 with ring := ringPush cfg.ringCapacity u1.ring (hardClip (softClip u1.hp)) }

/-- R560 `Resample()`. -/
def resample (cfg : Config) (a : Apu) : Apu :=
  let u := a.audio
  let acc := f64Add u.acc (f64OfNat 1)
  let step := cyclesPerSample u.sampleRate
  if f64Le step acc then { a with audio := emitSample cfg (apuMix a) { u with acc := f64Sub acc step } }
  else { a with audio := { u with acc := acc } }

/-- R561: sample i of a request for `len` samples of which k are there: linear interpolation at position i·(k-1)/(len-1)
(assumption 17, DEDUCED, unsafe: the order of the operations). -/
def interpolate (ring : List F64) (len i : Nat) : F64 :=
  let pos := f64Div (f64OfNat (i * (ring.length - 1))) (f64OfNat (len - 1))
  let j := f64Floor pos
  let x := ring.getD j F64.zero
  let y := ring.getD (j + 1) x
  f64Add x (f64Mul (f64Sub y x) (f64Sub pos (f64OfNat j)))

/-- R561: `read_audio(out)`, |out| = len: the samples written to `out` (none: `out` is untouched and 0 is returned) and the ring after. -/
def readAudioRing (len : Nat) (ring : List F64) : List F64 × List F64 :=
  if len ≤ ring.length then (ring.take len, ring.drop len)
  else if ring.length = 0 then ([], [])
  else ((List.range len).map (interpolate ring len), [])

end Sys2Proof.Machine
end

