-- ==== Sys2Proof/Machine/Memory.lean ====
section
/-! DEFINITION. Sys2Proof/Machine/Memory.lean: reading and writing one byte of a memory, one pixel of the frame buffer, and their canonical forms. -/

namespace Sys2Proof.Machine

/-- The byte at index `k`; an unlisted byte is $00. -/
def Memory.read : Memory → Nat → Byte
  | [], _ => 0
  | (a, b) :: m, k => if a = k then b else Memory.read m k

/-- `m[k] <- v`, keeping the canonical form: writing $00 leaves the index unlisted. -/
def Memory.write : Memory → Nat → Byte → Memory
  | [], k, v => if v = 0 then [] else [(k, v)]
  | (a, b) :: m, k, v =>
    if k < a then (if v = 0 then (a, b) :: m else (k, v) :: (a, b) :: m)
    else if k = a then (if v = 0 then m else (k, v) :: m)
    else (a, b) :: Memory.write m k v

/-- The canonical form: indexes strictly rising, no listed byte $00. -/
abbrev Memory.wf (m : Memory) : Prop := m.Pairwise (fun c d => c.1 < d.1) ∧ ∀ c ∈ m, c.2 ≠ 0

/-- Every listed index is below the memory's size. -/
abbrev Memory.below (m : Memory) (size : Nat) : Prop := ∀ c ∈ m, c.1 < size

/-- A memory that holds `bytes` from index 0 on. -/
def Memory.ofBytes (bytes : List Byte) : Memory :=
  (bytes.zipIdx.map fun c => (c.2, c.1)).filter fun c => c.2 != 0

/-- The bytes `v` written at `k`, `k + 1`, ... -/
def Memory.writeAll (m : Memory) (k : Nat) : List Byte → Memory
  | [] => m
  | v :: vs => Memory.writeAll (m.write k v) (k + 1) vs

/-- `frame_buffer[k]`. -/
def FrameBuffer.read : FrameBuffer → Nat → BitVec 32
  | [], _ => 0
  | (a, b) :: m, k => if a = k then b else FrameBuffer.read m k

/-- `frame_buffer[k] <- v`. A pixel written is opaque (R536), so never the unlisted value 0. -/
def FrameBuffer.write : FrameBuffer → Nat → BitVec 32 → FrameBuffer
  | [], k, v => [(k, v)]
  | (a, b) :: m, k, v =>
    if k < a then (k, v) :: (a, b) :: m
    else if k = a then (k, v) :: m
    else (a, b) :: FrameBuffer.write m k v

/-- The frame buffer's canonical form. -/
abbrev FrameBuffer.wf (m : FrameBuffer) : Prop := m.Pairwise (fun c d => c.1 < d.1) ∧ ∀ c ∈ m, c.2 ≠ 0

end Sys2Proof.Machine
end

