-- ==== Sys2Proof/Machine/MapperBanks.lean ====
section
/-! DEFINITION. Sys2Proof/Machine/MapperBanks.lean: what the lines of R596 and the facts of R598 say of the mapper variants: the offsets a selected bank gives, the registers a write leaves, the mirroring it selects. What a line does not say is a constant of Sys2Proof/Config.lean (assumptions 9 and 10). -/

namespace Sys2Proof.Machine

/-- R592, R594: `chr_is_ram` at an offset of `chr`: a byte of CHR RAM, not of CHR ROM. -/
def chrWritable (c : Cartridge) (off : Nat) : Bool := c.chrRamFrom ≤ off

/-- The offset of an address in bank number `bank` of `size` bytes. -/
def bankOffset (size bank a : Nat) : Nat := bank * size + a % size

/-- `width` data bits from bit `lo` up. -/
def dataBits (d : Byte) (lo width : Nat) : Nat := d.toNat / 2 ^ lo % 2 ^ width

/-- The registers a translation may depend on: bits still in MMC1's serial register and the IRQ's registers are not among them. -/
def bankingRegs (m : MapperRegs) : MapperRegs :=
  { m with serial := [], irqCounter := 0, irqLatch := 0, irqReload := false, irqEnabled := false, prescaler := 0, irqPending := false }

/-! ## PRG -/

/-- R596, UxROM: "last bank fixed at $C000", the bank selected at $8000, for an address from $8000 on; 16 KB banks (assumption 10,
DESIGN CHOICE, unsafe: their size). -/
def fixedLastBank (c : Cartridge) (a : Word) : Nat :=
  if a.toNat < 0xC000 then bankOffset 0x4000 c.mapper.prg a.toNat else c.prgSize - 0x4000 + a.toNat % 0x4000

/-- R596, UxROM: "4-bit PRG select at $8000+; last bank fixed at $C000". At $4020-$5FFF nothing is mapped (assumption 10, DESIGN
CHOICE, unsafe: the line says nothing of it). -/
def uxromMapRead (c : Cartridge) (a : Word) : Option Nat := if a.toNat < 0x8000 then none else some (fixedLastBank c a)

/-- R596, 227: "32KB/16KB modes, 'last bank' select bit", for an address from $8000 on. -/
def multi1200PrgOffset (c : Cartridge) (a : Word) : Nat :=
  let m := c.mapper
  if m.prgMode = 0 then bankOffset 0x8000 m.prg a.toNat
  else if a.toNat < 0xC000 then bankOffset 0x4000 m.prg a.toNat
  else bankOffset 0x4000 (Config.upperBank227 m.lastBank m.prg c.prgSize) a.toNat

/-- R596: `cpu_map_read` from $8000 on, of a variant other than NROM and UxROM. AxROM: "32KB PRG select"; 71: "UxROM-like". -/
def prgMapRead (c : Cartridge) (a : Word) : Option Nat :=
  match c.variant with
  | .axrom => some (bankOffset 0x8000 c.mapper.prg a.toNat)
  | .colorDreams | .gxrom | .nina => some (bankOffset (Config.mapperPrgBankSize c.variant) c.mapper.prg a.toNat)
  | .camerica => some (fixedLastBank c a)
  | .multi1200in1 => some (multi1200PrgOffset c a)
  | v => Config.mapperCpuMapRead v (bankingRegs c.mapper) c.prgSize a

/-! ## CHR -/

/-- The number, 0 to 7, of the 1 KB region of a PPU address below $2000. -/
def chrRegion (a : PpuAddr) : Nat := a.toNat / 0x400

/-- R598, 253: whether a region shows the appended CHR RAM: "when chr_low ∈ {4,5} and a 'vlock' latch is unlocked". -/
def showsAppendedRam (m : MapperRegs) (r : Nat) : Bool :=
  (m.banks.getD r 0 == 4 || m.banks.getD r 0 == 5) && !m.vlock

/-- R594, R602, 253: where the appended 8 KB of CHR RAM start: they end `chr`, so that without CHR banks they follow the base 8 KB of CHR
RAM (assumption 10, DEDUCED, unsafe: the rules say "after the CHR ROM", of which there is none then). -/
def appendedRamStart (c : Cartridge) : Nat := c.chrSize - 0x2000

/-- R598, 253: "that region accesses an appended 8KB CHR RAM area"; any other its 1 KB bank. -/
def waixingChrOffset (c : Cartridge) (a : PpuAddr) : Nat :=
  let m := c.mapper
  let low := m.banks.getD (chrRegion a) 0
  if showsAppendedRam m (chrRegion a) then appendedRamStart c + Config.waixingRamOffset low a % 0x2000
  else bankOffset 0x400 (Config.waixingBank low (m.chrHigh.getD (chrRegion a) 0)) a.toNat

/-- R598, 253: the bitmask by which the cartridge "informs the mapper which 1KB CHR banks are writable": bit k for bank k of `chr`. -/
def writableBanks (c : Cartridge) : Nat := 2 ^ (c.chrSize / 0x400) - 2 ^ (c.chrRamFrom / 0x400)

/-! ## The registers a write leaves: `old` before it, `free` what MAPPER[n] leaves of those no line names -/

/-- A select register: PRG and CHR bank loaded by a write that reaches it, kept by any other. -/
def selectBanks (reached : Bool) (prg chr : Nat) (old free : MapperRegs) : MapperRegs :=
  if reached then { free with prg := prg, chr := chr } else { free with prg := old.prg, chr := old.chr }

/-- Eight registers, number k of them loaded with x. -/
def loadBank (k x : Nat) (banks : List Nat) : List Nat :=
  (List.range 8).map fun j => if j = k then x else banks.getD j 0

/-- R596: the bank registers of MMC3 and 245, the 1 KB CHR banks of 16. That a write loads at most one, the one `Config.mapperBankWrite`
gives, is in no line (assumption 10, DESIGN CHOICE, unsafe). -/
def writeBank (w : Option (Fin 8 × Nat)) (banks : List Nat) : List Nat :=
  match w with
  | some (i, x) => loadBank i.val x banks
  | none => banks

/-- R596, 23: "per-1KB CHR nibble writes": a write replaces at most one nibble of one bank. -/
def writeNibble (w : Option (Fin 8 × Bool × BitVec 4)) (banks : List Nat) : List Nat :=
  match w with
  | some (i, high, n) =>
    let x := banks.getD i.val 0
    loadBank i.val (if high then n.toNat * 16 + x % 16 else x / 16 * 16 + n.toNat) banks
  | none => banks

/-- R596, MMC1: "Serial 5-write shift register controls PRG mode (4 variants), CHR mode (2), mirroring (4)": the five bits complete
with this write, if they are. -/
def mmc1Complete (old : MapperRegs) (a : Word) (d : Byte) : Option (List Bool) :=
  if Config.mmc1SerialAt a && !Config.mmc1Restart d && decide (4 ≤ old.serial.length) then
    some (old.serial ++ [bitAt d Config.mmc1DataBit])
  else none

/-- R596, MMC1: the registers after a write: the first four of five change the serial register alone; the fifth empties it. -/
def mmc1Write (old free : MapperRegs) (a : Word) (d : Byte) : MapperRegs :=
  match mmc1Complete old a d with
  | some bits =>
    { free with
      serial := []
      prgMode := if Config.mmc1ModesAt a then (Config.mmc1PrgMode bits).val else old.prgMode
      chrMode := if Config.mmc1ModesAt a then (Config.mmc1ChrMode bits).val else old.chrMode }
  | none =>
    if Config.mmc1SerialAt a then
      if Config.mmc1Restart d then { free with serial := [] }
      else { old with serial := old.serial ++ [bitAt d Config.mmc1DataBit] }
    else { free with serial := old.serial, prgMode := old.prgMode, chrMode := old.chrMode }

/-- R598, 253: the index of a CHR register, in the reading the model's constant names (spec/93_implementation_defined.md). -/
def waixingIndex (a : Word) : Nat :=
  let x := (a &&& 8) ||| (a >>> 8)
  (if Config.waixingReadingA then (x >>> 5) &&& 7 else ((x >>> 3) + 2) &&& 7).toNat

/-- R598, 253: "`chr_low == 0xC8` unlocks the latch, `0x88` re-locks", of any of the eight registers (assumption 10, DESIGN
CHOICE, unsafe). -/
def waixingLock (low : Nat) (locked : Bool) : Bool := if low = 0xC8 then false else if low = 0x88 then true else locked

/-- R598, 253: a CHR register written: `chr_low`, the latch, and "`chr_high` stored as `data >> 4`". -/
def waixingWrite (old free : MapperRegs) (a : Word) (d : Byte) : MapperRegs :=
  if Config.waixingChrAt a then
    let k := waixingIndex a
    let low := Config.waixingChrLow (old.banks.getD k 0) a d
    { free with
      banks := loadBank k low old.banks
      chrHigh := if Config.waixingHighAt a then loadBank k (d.toNat / 16) old.chrHigh else old.chrHigh
      vlock := waixingLock low old.vlock }
  else { free with banks := old.banks, chrHigh := old.chrHigh, vlock := old.vlock }

/-- R596, R598: the registers a write leaves, as each variant's line has them (assumption 10, DESIGN CHOICE: how the lines are read).
Unsafe among the readings: CNROM's CHR select takes data bits from bit 0 up, Camerica's PRG select data bits 3 to 0. -/
def writtenRegs (v : MapperVariant) (old free : MapperRegs) (a : Word) (d : Byte) : MapperRegs :=
  match v with
  | .mmc1 => mmc1Write old free a d
  | .cnrom => { free with chr := if 0x8000 ≤ a.toNat then dataBits d 0 (Config.mapperChrBits .cnrom) else old.chr }
  | .mmc3 | .waixingMmc3 | .bandaiFcg => { free with banks := writeBank (Config.mapperBankWrite v old a d) old.banks }
  | .axrom => { free with prg := if Config.mapperRegisterAt .axrom a then Config.mapperPrgSelect .axrom d else old.prg }
  | .colorDreams => selectBanks (Config.mapperRegisterAt .colorDreams a) (d.toNat % 16) (d.toNat / 16) old free
  | .multi100in1 | .multi150in1 =>
    { free with prgMode := if Config.mapperRegisterAt v a then Config.mapperAddressMode v a else old.prgMode }
  | .vrc24 => { free with banks := writeNibble (Config.vrcNibbleWrite old a d) old.banks }
  | .gxrom =>
    let k := Config.mapperChrBits .gxrom
    selectBanks (Config.mapperRegisterAt .gxrom a) (dataBits d (k + Config.gxromGap) Config.gxromPrgBits) (dataBits d 0 k) old free
  | .camerica =>
    { free with prg := if decide (0x8000 ≤ a.toNat) && Config.mapperRegisterAt .camerica a then d.toNat % 16 else old.prg }
  | .nina =>
    selectBanks (decide (0x4100 ≤ a.toNat ∧ a.toNat ≤ 0x5FFF)) (Config.mapperPrgSelect .nina d) (Config.mapperChrSelect .nina d) old free
  | .waixingVrc4 => waixingWrite old free a d
  | .nrom | .uxrom | .multi52in1 | .multi1200in1 => free

/-- R596, R598: the mirroring after a write, where the variant's line says it; `old` before it, m the registers before it.
AxROM: "single-screen mirror bit", which value selects which screen being a constant (assumption 9, DESIGN CHOICE, safe); 15: "mirroring in data bit"; 71: "mirroring via $9000"; 225: by address bit 13 (assumption 10, DESIGN CHOICE: how the lines are read). -/
def writtenMirroring (v : MapperVariant) (m : MapperRegs) (old : Mirroring) (a : Word) (d : Byte) : Option Mirroring :=
  match v with
  | .mmc1 =>
    match mmc1Complete m a d with
    | some bits => some (if Config.mmc1ModesAt a then Config.mmc1Mirroring (Config.mmc1MirrorField bits) else old)
    | none => some old
  | .axrom =>
    some <|
      if Config.mapperRegisterAt .axrom a then
        (if bitAt d (Config.mapperMirrorBit .axrom) = Config.axromHighBit then .singleScreenHigh else .singleScreenLow)
      else old
  | .multi100in1 =>
    some <|
      if Config.mapperRegisterAt .multi100in1 a then
        Config.mapperMirroringOf .multi100in1 (bitAt d (Config.mapperMirrorBit .multi100in1))
      else old
  | .camerica =>
    if a = 0x9000 then some (Config.mapperMirroringOf .camerica (bitAt d (Config.mapperMirrorBit .camerica))) else none
  | .multi52in1 => some (if bitAt a 13 then .vertical else .horizontal)
  | _ => none

/-! ## Hooks -/

/-- R597: MMC3's counter, "reload when counter==0 OR reload_flag set, clocked on A12 rising edge". It has no width (assumption 10, DESIGN
CHOICE, unsafe: the spec gives none). -/
def mmc3ScanlineTick (m : MapperRegs) : MapperRegs :=
  let m1 :=
    if m.irqCounter = 0 ∨ m.irqReload then { m with irqCounter := m.irqLatch, irqReload := false }
    else { m with irqCounter := m.irqCounter - 1 }
  if m1.irqCounter = 0 ∧ m1.irqEnabled then { m1 with irqPending := true } else m1

/-- R598, mapper 16: the counter "is signed; pend when counter < 0", decremented by `cpu_tick()`. It has no width (assumption 10, DESIGN
CHOICE, unsafe: the spec gives none). -/
def bandaiCpuTick (m : MapperRegs) : MapperRegs :=
  let m1 := { m with irqCounter := m.irqCounter - 1 }
  if m1.irqCounter < 0 then { m1 with irqPending := true } else m1

/-- R423, R599: a hook whose registers MAPPER[n] gives as f: it may set the pending bit, and leaves a pending request, which a read or an
acknowledge alone clears. -/
def hookRegs (m f : MapperRegs) : MapperRegs := { f with irqPending := m.irqPending || f.irqPending }

/-- R423: a clock of an IRQ counter that MAPPER[n] gives as f changes the IRQ's registers alone. -/
def counterClock (m f : MapperRegs) : MapperRegs :=
  { m with
    irqCounter := f.irqCounter, irqLatch := f.irqLatch, irqReload := f.irqReload, irqEnabled := f.irqEnabled
    irqPending := m.irqPending || f.irqPending }

/-- R596, 23: "prescaled scanline IRQ": the IRQ counter is clocked when the prescaler has counted its period, and only then. -/
def vrcTick (m : MapperRegs) : MapperRegs :=
  let n := m.prescaler + Config.vrcPrescalerStep m
  if n < Config.vrcPrescalerPeriod then { m with prescaler := n }
  else { counterClock m (Config.vrcCounterClock m) with prescaler := n - Config.vrcPrescalerPeriod }

end Sys2Proof.Machine
end

