-- ==== Sys2Proof/Machine/Mapper.lean ====
section
/-! DEFINITION. Sys2Proof/Machine/Mapper.lean: the mapper interface of R590 over the tagged sum of variants: mapper 0 is R592, the others what Sys2Proof/Machine/MapperBanks.lean says of them over the constants of Sys2Proof/Config.lean. -/

namespace Sys2Proof.Machine

/-- R590 `cpu_map_read`: "Offset into PRG ROM, or None if the region isn't mapped". -/
def cpuMapRead (c : Cartridge) (a : Word) : Option Nat :=
  match c.variant with
  | .nrom => if 0x8000 ≤ a.toNat then some ((a.toNat - 0x8000) % c.prgSize) else none
  | .uxrom => uxromMapRead c a
  | v => if a.toNat < 0x8000 then Config.mapperCpuMapRead v (bankingRegs c.mapper) c.prgSize a else prgMapRead c a

/-- R94: a cartridge read: the byte at the mapped offset modulo the PRG ROM's size, $00 where nothing is mapped. -/
def cartRead (c : Cartridge) (a : Word) : Byte :=
  match cpuMapRead c a with
  | some off => c.prgRom.read (off % c.prgSize)
  | none => 0

/-- R590: a `WriteEffect`'s mirroring mode and IRQ pulse take effect at once. -/
def applyWriteEffect (e : Option WriteEffect) (c : Cartridge) : Cartridge :=
  match e with
  | none => c
  | some e =>
    { c with
      mirroring := e.mirroring.getD c.mirroring
      mapper := { c.mapper with irqPending := c.mapper.irqPending || e.irqPulse } }

/-- R590 `cpu_map_write` and the effect it returns, as MAPPER[n] has them: what no line of R596 to R598 says. A write sets the pending bit
by its effect's IRQ pulse alone, and may acknowledge a request (R423, R599). -/
def freeMapWrite (c : Cartridge) (a : Word) (d : Byte) : Cartridge :=
  let m := Config.mapperCpuMapWrite c.variant c.mapper a d
  applyWriteEffect (Config.mapperWriteEffect c.variant c.mapper a d)
    { c with mapper := { m with irqPending := c.mapper.irqPending && m.irqPending } }

/-- R590 `cpu_map_write` and the effect it returns. NROM has no registers (R592). UxROM's one register is the 4-bit PRG select (R596),
data bits 3 to 0; a write below $8000 is ignored, and one from $8000 on returns no effect and changes no other register (assumption 10, DESIGN
CHOICE, unsafe: the line says neither which four bits nor anything of the rest). -/
def cpuMapWrite (c : Cartridge) (a : Word) (d : Byte) : Cartridge :=
  match c.variant with
  | .nrom => c
  | .uxrom => if 0x8000 ≤ a.toNat then { c with mapper := { c.mapper with prg := d.toNat % 16 } } else c
  | v =>
    let f := freeMapWrite c a d
    { c with
      mapper := writtenRegs v c.mapper f.mapper a d
      mirroring := (writtenMirroring v c.mapper c.mirroring a d).getD f.mirroring }

/-- R590 `ppu_map_read`, for a PPU address below $2000. -/
def ppuMapRead (c : Cartridge) (a : PpuAddr) : Option Nat :=
  match c.variant with
  | .nrom => some a.toNat
  | .cnrom | .colorDreams | .gxrom | .nina => some (bankOffset (Config.mapperChrBankSize c.variant) c.mapper.chr a.toNat)
  | .bandaiFcg | .vrc24 => some (bankOffset 0x400 (c.mapper.banks.getD (chrRegion a) 0) a.toNat)
  | .waixingVrc4 => some (waixingChrOffset c a)
  | v => Config.mapperPpuMapRead v (bankingRegs c.mapper) c.chrSize a

/-- R590 `ppu_map_write`: "Offset into CHR RAM (or None if CHR is ROM and write is ignored)". A variant whose line says where a CHR read
goes, or names CHR RAM (15, 245), writes where it reads (assumption 10, DEDUCED, unsafe). -/
def ppuMapWrite (c : Cartridge) (a : PpuAddr) : Option Nat :=
  match c.variant with
  | .nrom => if chrWritable c a.toNat then some a.toNat else none
  | .cnrom | .colorDreams | .gxrom | .nina | .bandaiFcg | .vrc24 | .multi100in1 | .waixingMmc3 =>
    (ppuMapRead c a).filter fun off => chrWritable c (off % c.chrSize)
  | .waixingVrc4 => (ppuMapRead c a).filter fun off => (writableBanks c).testBit (off % c.chrSize / 0x400)
  | v => Config.mapperPpuMapWrite v (bankingRegs c.mapper) c.chrSize a

/-- R701, R427: the registers `reset()` leaves: MAPPER[n]'s power-on state with the pending bit 0. -/
def mapperPowerOnRegs (v : MapperVariant) : MapperRegs :=
  match v with
  | .nrom => MapperRegs.blank
  | v => { Config.mapperPowerOn v with irqPending := false }

/-- R591: the `reset()` hook. -/
def mapperReset (c : Cartridge) : Cartridge := { c with mapper := mapperPowerOnRegs c.variant }

/-- R590 `scanline_tick()`; "A mapper without a hook does nothing there". Mapper 16's counter counts CPU cycles (R423), so this is no hook
of its (assumption 10, DEDUCED, unsafe). -/
def scanlineTickRegs (v : MapperVariant) (m : MapperRegs) : MapperRegs :=
  match v with
  | .nrom | .uxrom | .bandaiFcg => m
  | .mmc3 => mmc3ScanlineTick m
  | .vrc24 => if Config.vrcByScanline then vrcTick m else m
  | v => hookRegs m (Config.mapperScanlineTick v m)

/-- R590 `cpu_tick()`, "for cycle-counting IRQs": MMC3's counter is clocked by A12 (R423, R597), so this is no hook of its (assumption 10,
DEDUCED, unsafe). -/
def cpuTickRegs (v : MapperVariant) (m : MapperRegs) : MapperRegs :=
  match v with
  | .nrom | .uxrom | .mmc3 => m
  | .bandaiFcg => bandaiCpuTick m
  | .vrc24 => if Config.vrcByScanline then m else vrcTick m
  | v => hookRegs m (Config.mapperCpuTick v m)

/-- R590, R430: an A12 notification. -/
def mapperScanlineTick (c : Cartridge) : Cartridge := { c with mapper := scanlineTickRegs c.variant c.mapper }

/-- R590, R431: a CPU slot's tick. -/
def mapperCpuTick (c : Cartridge) : Cartridge := { c with mapper := cpuTickRegs c.variant c.mapper }

end Sys2Proof.Machine
end

