-- ==== Sys2Proof/Machine/PpuMemory.lean ====
section
/-! DEFINITION. Sys2Proof/Machine/PpuMemory.lean: the PPU's own address space (R98 to R101, R516). -/

namespace Sys2Proof.Machine

/-- R99: the nametable bank of a quadrant under a mirroring mode. -/
def nametableBank (m : Mirroring) (q : BitVec 2) : Nat :=
  match m with
  | .horizontal => if bitAt q 1 then 1 else 0
  | .vertical => if bitAt q 0 then 1 else 0
  | .singleScreenLow => 0
  | .singleScreenHigh => 1
  | .fourScreen => q.toNat

/-- R99: the nametable RAM index of an address in $2000-$3EFF; folding $3000-$3EFF down by $1000 keeps bits 11..0 (assumption 13, DESIGN CHOICE, safe: one store
of 4 KB). -/
def ntIndex (m : Mirroring) (a : PpuAddr) : Nat :=
  nametableBank m (getField a 10 2) * 0x400 + (getField a 0 10).toNat

/-- R100: the palette byte of an address in $3F00-$3FFF: $10, $14, $18, $1C alias $00, $04, $08, $0C. -/
def palIndex (a : PpuAddr) : Nat :=
  let i := (getField a 0 5).toNat
  if i = 0x10 ∨ i = 0x14 ∨ i = 0x18 ∨ i = 0x1C then i - 0x10 else i

/-- R516: `ppu_read(a)`. -/
def ppuRead (c : Cartridge) (p : Ppu) (a : PpuAddr) : Byte :=
  if a.toNat < 0x2000 then
    match ppuMapRead c a with
    | some off => c.chr.read (off % c.chrSize)
    | none => 0
  else if a.toNat < 0x3F00 then p.nametable.read (ntIndex c.mirroring a)
  else p.palette.read (palIndex a)

/-- R516: the CHR part of `ppu_write(a, d)`, a below $2000; a write that reaches CHR ROM is dropped (R91, R594; assumption 25, DEDUCED, safe). -/
def chrWrite (c : Cartridge) (a : PpuAddr) (d : Byte) : Cartridge :=
  match ppuMapWrite c a with
  | some off => if chrWritable c (off % c.chrSize) then { c with chr := c.chr.write (off % c.chrSize) d } else c
  | none => c

/-- R516: the part of `ppu_write(a, d)` inside the PPU, a at or above $2000. -/
def vramWrite (m : Mirroring) (a : PpuAddr) (d : Byte) (p : Ppu) : Ppu :=
  if a.toNat < 0x3F00 then { p with nametable := p.nametable.write (ntIndex m a) d }
  else { p with palette := p.palette.write (palIndex a) d }

/-- R516: `ppu_write(a, d)`. -/
def ppuWrite (c : Cartridge) (p : Ppu) (a : PpuAddr) (d : Byte) : Ppu × Cartridge :=
  if a.toNat < 0x2000 then (p, chrWrite c a d) else (vramWrite c.mirroring a d p, c)

end Sys2Proof.Machine
end

