-- ==== Sys2Proof/Machine/PpuRegs.lean ====
section
/-! DEFINITION. Sys2Proof/Machine/PpuRegs.lean: the PPU registers $2000-$2007 as the CPU sees them (R500 to R512). -/

namespace Sys2Proof.Machine

/-- R504: "Rendering enabled means `mask.show_background ∨ mask.show_sprites`". -/
def renderingEnabled (p : Ppu) : Bool := bitAt p.mask 3 || bitAt p.mask 4

/-- R503: write $2000. -/
def writeCtrl (d : Byte) (p : Ppu) : Ppu :=
  { p with
    ctrl := d
    t := putField p.t 10 (getField d 0 2)
    nmiPending := p.nmiPending || (!bitAt p.ctrl 7 && bitAt d 7 && bitAt p.status 7) }

/-- R504: write $2001. -/
def writeMask (d : Byte) (p : Ppu) : Ppu := { p with mask := d }

/-- R506: read $2002. -/
def readStatus (p : Ppu) : Byte × Ppu :=
  ((p.status &&& 0xE0) ||| (p.dataBuffer &&& 0x1F), { p with status := putBit p.status 7 false, w := false })

/-- R507: write $2003. -/
def writeOamAddr (d : Byte) (p : Ppu) : Ppu := { p with oamAddr := d }

/-- R508: read $2004. -/
def readOamData (p : Ppu) : Byte := p.oam.read p.oamAddr.toNat

/-- R508: write $2004. -/
def writeOamData (d : Byte) (p : Ppu) : Ppu :=
  { p with oam := p.oam.write p.oamAddr.toNat d, oamAddr := p.oamAddr + 1 }

/-- R509: write $2005. -/
def writeScroll (d : Byte) (p : Ppu) : Ppu :=
  if p.w then { p with t := putField (putField p.t 12 (getField d 0 3)) 5 (getField d 3 5), w := false }
  else { p with t := putField p.t 0 (getField d 3 5), fineX := getField d 0 3, w := true }

/-- R509: write $2006. -/
def writeAddr (d : Byte) (p : Ppu) : Ppu :=
  if p.w then { p with t := putField p.t 0 d, v := putField p.t 0 d, w := false }
  else { p with t := putBit (putField p.t 8 (getField d 0 6)) 14 false, w := true }

/-- R510, R511: v after an access to $2007, modulo $8000. -/
def nextV (p : Ppu) : BitVec 15 := p.v + (if bitAt p.ctrl 2 then 32 else 1)

/-- R98: `v & $3FFF`. -/
def vAddr (p : Ppu) : PpuAddr := getField p.v 0 14

/-- R510: read $2007. -/
def readData (c : Cartridge) (p : Ppu) : Byte × Ppu :=
  let a := vAddr p
  if a.toNat < 0x3F00 then (p.dataBuffer, { p with dataBuffer := ppuRead c p a, v := nextV p })
  else (ppuRead c p a, { p with dataBuffer := ppuRead c p (a - 0x1000), v := nextV p })

/-- R511: write $2007. -/
def writeData (d : Byte) (c : Cartridge) (p : Ppu) : Ppu × Cartridge :=
  let r := ppuWrite c p (vAddr p) d
  ({ r.1 with v := nextV p }, r.2)

/-- R500, R512: a CPU read of PPU register `r` = a & 7; the write-only registers read $00 with no side effect. -/
def ppuRegRead (r : Nat) (c : Cartridge) (p : Ppu) : Byte × Ppu :=
  if r = 2 then readStatus p
  else if r = 4 then (readOamData p, p)
  else if r = 7 then readData c p
  else (0, p)

/-- R500, R512: a CPU write of PPU register `r` = a & 7; writes to $2002 are ignored. -/
def ppuRegWrite (r : Nat) (d : Byte) (c : Cartridge) (p : Ppu) : Ppu × Cartridge :=
  if r = 0 then (writeCtrl d p, c)
  else if r = 1 then (writeMask d p, c)
  else if r = 3 then (writeOamAddr d p, c)
  else if r = 4 then (writeOamData d p, c)
  else if r = 5 then (writeScroll d p, c)
  else if r = 6 then (writeAddr d p, c)
  else if r = 7 then writeData d c p
  else (p, c)

end Sys2Proof.Machine
end

