-- ==== Sys2Proof/Machine/Bus.lean ====
section
/-! DEFINITION. Sys2Proof/Machine/Bus.lean: the CPU bus map (R92 to R95), one byte read or written with its side effects (R14, R90, R91), the controllers (R570, R571) and the start of OAM DMA (R580). -/

namespace Sys2Proof.Machine

/-- R570: the byte a controller port returns, the MSB of its shift register in bit 0. -/
def padByte (shift : Byte) : Byte := (BitVec.ofBool (bitAt shift 7)).setWidth 8

/-- R571: write $4016: bit 0 latches both controllers' buttons. -/
def writeStrobe (d : Byte) (c : Controllers) : Controllers :=
  if bitAt d 0 then { c with shift1 := c.buttons1, shift2 := c.buttons2 } else c

/-- R580: write $4014. -/
def startDma (v : Byte) (d : Dma) : Dma := { d with page := v, addr := 0, dummy := true, transferring := true }

/-- R92: `MemRead(a, 1)`: the byte read and the state after the read's side effect. -/
def busRead (a : Word) (s : State) : Byte × State :=
  let n := a.toNat
  if n < 0x2000 then (s.ram.read (n % 0x800), s)
  else if n < 0x4000 then
    let r := ppuRegRead (n % 8) s.cart s.ppu
    (r.1, { s with ppu := r.2 })
  else if n < 0x4015 then (0, s)
  else if n = 0x4015 then (apuStatusByte s.apu, { s with apu := clearFrameIrq s.apu })
  else if n = 0x4016 then (padByte s.pads.shift1, { s with pads := { s.pads with shift1 := s.pads.shift1 <<< 1 } })
  else if n = 0x4017 then (padByte s.pads.shift2, { s with pads := { s.pads with shift2 := s.pads.shift2 <<< 1 } })
  else if n < 0x4020 then (0, s)
  else if n < 0x6000 then (cartRead s.cart a, s)
  else if n < 0x8000 then (s.cart.prgRam.read (n - 0x6000), s)
  else (cartRead s.cart a, s)

/-- R92: `MemWrite(a, 1, v)`. -/
def busWrite (a : Word) (v : Byte) (s : State) : State :=
  let n := a.toNat
  if n < 0x2000 then { s with ram := s.ram.write (n % 0x800) v }
  else if n < 0x4000 then
    let r := ppuRegWrite (n % 8) v s.cart s.ppu
    { s with ppu := r.1, cart := r.2 }
  else if n < 0x4014 then { s with apu := writeApuChannel (n - 0x4000) v s.apu }
  else if n = 0x4014 then { s with dma := startDma v s.dma }
  else if n = 0x4015 then { s with apu := writeApuStatus v s.apu }
  else if n = 0x4016 then { s with pads := writeStrobe v s.pads }
  else if n = 0x4017 then { s with apu := writeFrameCounter v s.apu }
  else if n < 0x4020 then s
  else if n < 0x6000 then { s with cart := cpuMapWrite s.cart a v }
  else if n < 0x8000 then { s with cart := { s.cart with prgRam := s.cart.prgRam.write (n - 0x6000) v } }
  else { s with cart := cpuMapWrite s.cart a v }

end Sys2Proof.Machine
end

