-- ==== Sys2Proof/Machine/ApuTick.lean ====
section
/-! DEFINITION. Sys2Proof/Machine/ApuTick.lean: `apu.tick()` (R551): the frame sequencer (R555), the timers (R542, R546, R547), the DMC and its reader on the CPU bus (R549, R557). -/

namespace Sys2Proof.Machine

/-- R555: set the frame-IRQ flag "if not inhibited". -/
def raiseFrameIrq (a : Apu) : Apu := { a with frame := { a.frame with irq := a.frame.irq || !a.frame.inhibit } }

/-- R555: `frame_cycle <- n`. -/
def setFrameCycle (n : Nat) (a : Apu) : Apu := { a with frame := { a.frame with frameCycle := n } }

/-- R555: `frame_cycle` at the last step of the sequence. -/
def lastFrameStep (fiveStep : Bool) : Nat := if fiveStep then 37281 else 29829

/-- The period of the sequence: R555's, or R556's of one more (assumption 7, DESIGN CHOICE, safe: the parameter `frameWrap`). -/
def framePeriod (w : FrameWrap) (fiveStep : Bool) : Nat :=
  match w with
  | .atStep => lastFrameStep fiveStep
  | .afterStep => lastFrameStep fiveStep + 1

/-- R555: the clocks due when `frame_cycle` reaches n, and the frame IRQ of the last of the four steps. -/
def frameClocks (n : Nat) (a : Apu) : Apu :=
  if n = 7457 then quarterFrame a
  else if n = 14913 then halfFrame (quarterFrame a)
  else if n = 22371 then quarterFrame a
  else if n = lastFrameStep a.frame.fiveStep then
    if a.frame.fiveStep then halfFrame (quarterFrame a) else raiseFrameIrq (halfFrame (quarterFrame a))
  else a

/-- R555 `FrameTick()`: the count goes up, back to 0 at the period's end, and the clocks due at it are given. -/
def frameTick (w : FrameWrap) (a : Apu) : Apu :=
  let n := a.frame.frameCycle + 1
  frameClocks n (setFrameCycle (if n = framePeriod w a.frame.fiveStep then 0 else n) a)

/-- R542: a pulse channel's timer. -/
def stepPulse (p : Pulse) : Pulse :=
  if p.timer = 0 then { p with timer := p.timerPeriod, seqPos := p.seqPos + 1 } else { p with timer := p.timer - 1 }

/-- R546: the triangle's timer. -/
def stepTriangle (t : Triangle) : Triangle :=
  if t.timer = 0 then
    { t with timer := t.timerPeriod, seqPos := if 0 < t.length ∧ 0 < t.linear then t.seqPos + 1 else t.seqPos }
  else { t with timer := t.timer - 1 }

/-- R547: one LFSR step, taps 0 and 1, or 0 and 6 in mode 1. -/
def stepLfsr (mode : Bool) (lfsr : BitVec 15) : BitVec 15 :=
  let fb := bitAt lfsr 0 ^^ (if mode then bitAt lfsr 6 else bitAt lfsr 1)
  putBit (lfsr >>> 1) 14 fb

/-- R547: the noise channel's timer. -/
def stepNoise (table : List Nat) (n : Noise) : Noise :=
  if n.timer = 0 then { n with timer := table.getD n.periodIndex.toNat 0, lfsr := stepLfsr n.mode n.lfsr }
  else { n with timer := n.timer - 1 }

/-- R549: the level moved by one output bit. -/
def dmcLevel (up : Bool) (level : BitVec 7) : BitVec 7 :=
  if up then (if level.toNat ≤ 125 then level + 2 else level) else (if 2 ≤ level.toNat then level - 2 else level)

/-- R549: an output clock of the DMC before the byte boundary: timer reloaded, level moved, shift and bit count stepped. -/
def dmcShift (table : List Nat) (d : Dmc) : Dmc :=
  { d with
    timer := table.getD d.rateIndex.toNat 0
    level := if d.silence then d.level else dmcLevel (bitAt d.shift 0) d.level
    shift := d.shift >>> 1
    bitsRemaining := d.bitsRemaining - 1 }

/-- R557: the reader's registers after a byte: address wrap from $FFFF to $8000, and the sample's end. -/
def dmcAdvance (d : Dmc) : Dmc :=
  let d1 := { d with
    currentAddr := if d.currentAddr = 0xFFFF then 0x8000 else d.currentAddr + 1
    bytesRemaining := d.bytesRemaining - 1 }
  if d1.bytesRemaining = 0 then
    if d1.loop then { d1 with currentAddr := d1.sampleAddr, bytesRemaining := d1.sampleLen }
    else if d1.irqEnable then { d1 with irq := true }
    else d1
  else d1

/-- The DMC's registers replaced. -/
def setDmc (d : Dmc) (s : State) : State := { s with apu := { s.apu with dmc := d } }

/-- R557 `DmcFetch()`. -/
def dmcFetch (s : State) : Byte × State :=
  let b := busRead s.apu.dmc.currentAddr s
  let s1 := { b.2 with dmcStall := min 4 (b.2.dmcStall + b.2.config.dmcStall) }
  (b.1, setDmc (dmcAdvance s1.apu.dmc) s1)

/-- R549: the byte boundary: the next byte is fetched, or the channel falls silent. -/
def dmcReload (s : State) : State :=
  let s1 := setDmc { s.apu.dmc with bitsRemaining := 8 } s
  if 0 < s1.apu.dmc.bytesRemaining then
    let b := dmcFetch s1
    setDmc { b.2.apu.dmc with shift := b.1, silence := false } b.2
  else setDmc { s1.apu.dmc with silence := true } s1

/-- R549: the DMC on an even APU tick. -/
def dmcStep (s : State) : State :=
  let d := s.apu.dmc
  if 0 < d.timer then setDmc { d with timer := d.timer - 1 } s
  else
    let s1 := setDmc (dmcShift s.config.dmcRateTable d) s
    if s1.apu.dmc.bitsRemaining = 0 then dmcReload s1 else s1

/-- R551: the pulse and noise timers, on even APU ticks. -/
def stepTimers (table : List Nat) (a : Apu) : Apu :=
  { a with pulse1 := stepPulse a.pulse1, pulse2 := stepPulse a.pulse2, noise := stepNoise table a.noise }

/-- R551 `apu.tick()`. -/
def apuTick (s : State) : State :=
  let a1 := frameTick s.config.frameWrap s.apu
  let s1 := { s with apu := { a1 with triangle := stepTriangle a1.triangle } }
  let s2 :=
    if s1.apu.tickCount % 2 = 0 then dmcStep { s1 with apu := stepTimers s1.config.noisePeriodTable s1.apu } else s1
  { s2 with apu := { resample s2.config s2.apu with tickCount := s2.apu.tickCount + 1 } }

end Sys2Proof.Machine
end

