-- ==== Sys2Proof/Machine/Flags.lean ====
section
/-! DEFINITION. Sys2Proof/Machine/Flags.lean: the flags of P (R35) and every flag computation of the spec: SetNZ (R16), ADC and SBC (R230 to R232), the compare helper (R237), BIT (R236), the shifts and rotates (R247 to R250). All act on the CPU's registers alone. -/

namespace Sys2Proof.Machine

/-- R35: the flags of P. -/
inductive Flag
  | c
  | z
  | i
  | d
  | b
  | u
  | v
  | n
deriving DecidableEq, Repr

/-- R35: the bit of P a flag is. -/
def flagIndex : Flag → Nat
  | .c => 0
  | .z => 1
  | .i => 2
  | .d => 3
  | .b => 4
  | .u => 5
  | .v => 6
  | .n => 7

/-- R13: `P.f` of a status byte. -/
def getFlag (f : Flag) (p : Byte) : Bool := bitAt p (flagIndex f)

/-- `P.f <- x` in a status byte. -/
def setFlag (f : Flag) (x : Bool) (p : Byte) : Byte := putBit p (flagIndex f) x

/-- R13: `P.f` of the CPU. -/
def Cpu.flag (f : Flag) (r : Cpu) : Bool := getFlag f r.p

/-- R13: `P.f <- x` of the CPU. -/
def Cpu.setFlag (f : Flag) (x : Bool) (r : Cpu) : Cpu := { r with p := Sys2Proof.Machine.setFlag f x r.p }

/-- R16: `SetNZ(v)`. -/
def setNZ (v : Byte) (r : Cpu) : Cpu := (r.setFlag .n (bitAt v 7)).setFlag .z (v == 0)

/-- R232: the overflow law for r = (a + b + c) mod 256: a and b have one sign and r the other. -/
def overflow (a b r : Byte) : Bool := bitAt (~~~(a ^^^ b) &&& (a ^^^ r)) 7

/-- R230, and R231 on the complemented operand: A + m + C, with C, V, N, Z. -/
def addWithCarry (m : Byte) (r : Cpu) : Cpu :=
  let s := r.a.toNat + m.toNat + bitNat (r.flag .c)
  let res := BitVec.ofNat 8 s
  setNZ res { ((r.setFlag .c (0xFF < s)).setFlag .v (overflow r.a m res)) with a := res }

/-- R237: `Compare(reg, m)`. -/
def compare (reg m : Byte) (r : Cpu) : Cpu :=
  ((r.setFlag .c (m.toNat ≤ reg.toNat)).setFlag .z (reg == m)).setFlag .n (bitAt (reg - m) 7)

/-- R236: the flags of BIT. -/
def bitTest (m : Byte) (r : Cpu) : Cpu :=
  ((r.setFlag .z (r.a &&& m == 0)).setFlag .n (bitAt m 7)).setFlag .v (bitAt m 6)

/-- R215, R284: "P <- (v & ~$10) | $20", B cleared and U set. -/
def pulledStatus (v : Byte) : Byte := (v &&& ~~~0x10) ||| 0x20

/-- R410: the pushed copy of P: U = 1, B = pushB. -/
def pushedStatus (p : Byte) (pushB : Bool) : Byte := (p &&& ~~~0x30) ||| 0x20 ||| (if pushB then 0x10 else 0)

/-- An operation of R251: the result of a value, and what it does to the CPU's flags. -/
structure RmwResult where
  value : Byte
  cpu : Cpu
deriving DecidableEq, Repr

/-- R241: INC. -/
def incByte (v : Byte) (r : Cpu) : RmwResult := { value := v + 1, cpu := setNZ (v + 1) r }

/-- R242: DEC. -/
def decByte (v : Byte) (r : Cpu) : RmwResult := { value := v - 1, cpu := setNZ (v - 1) r }

/-- R247: ASL. -/
def aslByte (v : Byte) (r : Cpu) : RmwResult :=
  { value := v <<< 1, cpu := setNZ (v <<< 1) (r.setFlag .c (bitAt v 7)) }

/-- R248: LSR. -/
def lsrByte (v : Byte) (r : Cpu) : RmwResult :=
  { value := v >>> 1, cpu := setNZ (v >>> 1) (r.setFlag .c (bitAt v 0)) }

/-- R249: ROL: the old C enters bit 0. -/
def rolByte (v : Byte) (r : Cpu) : RmwResult :=
  let res := (v <<< 1) ||| (BitVec.ofBool (r.flag .c)).setWidth 8
  { value := res, cpu := setNZ res (r.setFlag .c (bitAt v 7)) }

/-- R250: ROR: the old C enters bit 7. -/
def rorByte (v : Byte) (r : Cpu) : RmwResult :=
  let res := (v >>> 1) ||| ((BitVec.ofBool (r.flag .c)).setWidth 8 <<< 7)
  { value := res, cpu := setNZ res (r.setFlag .c (bitAt v 0)) }

end Sys2Proof.Machine
end

