-- ==== Sys2Proof/Machine/Ops.lean ====
section
/-! DEFINITION. Sys2Proof/Machine/Ops.lean: the named operations the instruction rules use: words read from memory (R83 to R85), the stack (R86, R87), taking an interrupt (R410) and returning from one (R284, R413), and the common completion of R401. -/

namespace Sys2Proof.Machine

/-- What one instruction, one CPU slot and one step answer. -/
abbrev Result := Host.Outcome State Fault Refusal

/-- The CPU's registers replaced. -/
def setCpu (r : Cpu) (s : State) : State := { s with cpu := r }

/-- `PC <- a`. -/
def setPc (a : Word) (s : State) : State := { s with cpu := { s.cpu with pc := a } }

/-- `SP <- b`. -/
def setSp (b : Byte) (s : State) : State := { s with cpu := { s.cpu with sp := b } }

/-- `A <- b`. -/
def setA (b : Byte) (s : State) : State := { s with cpu := { s.cpu with a := b } }

/-- `X <- b`. -/
def setX (b : Byte) (s : State) : State := { s with cpu := { s.cpu with x := b } }

/-- `Y <- b`. -/
def setY (b : Byte) (s : State) : State := { s with cpu := { s.cpu with y := b } }

/-- Whether the last instruction was a BRK executed with I = 0 (assumption 28, DESIGN CHOICE, safe). -/
def setBrkUnmasked (x : Bool) (s : State) : State := { s with cpu := { s.cpu with brkUnmasked := x } }

/-- P replaced whole. -/
def setP (b : Byte) (s : State) : State := { s with cpu := { s.cpu with p := b } }

/-- R83: `ReadWord(a)`. -/
def readWord (a : Word) (s : State) : Word × State :=
  let lo := busRead a s
  let hi := busRead (a + 1) lo.2
  (mkWord hi.1 lo.1, hi.2)

/-- R84: `ReadWordZP(p)`: the high byte comes from (p + 1) mod 256. -/
def readWordZP (p : Byte) (s : State) : Word × State :=
  let lo := busRead (zext16 p) s
  let hi := busRead (zext16 (p + 1)) lo.2
  (mkWord hi.1 lo.1, hi.2)

/-- R85: `ReadWordJmpInd(a)`: the high byte comes from the same page. -/
def readWordJmpInd (a : Word) (s : State) : Word × State :=
  let lo := busRead a s
  let hi := busRead (mkWord (hiByte a) (loByte a + 1)) lo.2
  (mkWord hi.1 lo.1, hi.2)

/-- R33, R86: the address `$0100 | SP`. -/
def stackAddr (sp : Byte) : Word := 0x0100 ||| zext16 sp

/-- R86: `Push(v)`. -/
def push (v : Byte) (s : State) : State :=
  let s1 := busWrite (stackAddr s.cpu.sp) v s
  setSp (s1.cpu.sp - 1) s1

/-- R87: `Pull()`. -/
def pull (s : State) : Byte × State :=
  let s1 := setSp (s.cpu.sp + 1) s
  busRead (stackAddr s1.cpu.sp) s1

/-- R410, R411: the pacing of `nmi()` and `irq()`, after which no BRK is the last thing done (assumption 28); BRK's is its own completion (`none`). -/
def paceEntry (cycles : Option Nat) (s : State) : State :=
  match cycles with
  | none => s
  | some n =>
    { s with
      cpu := { s.cpu with cyclesRemaining := n, totalCycles := s.cpu.totalCycles + n, brkUnmasked := false } }

/-- R410: `EnterInterrupt(vector, pushB, cycles)`, shared by `nmi()`, `irq()` and BRK. -/
def enterInterrupt (vector : Word) (pushB : Bool) (cycles : Option Nat) (s : State) : State :=
  let s1 := push (hiByte s.cpu.pc) s
  let s2 := push (loByte s1.cpu.pc) s1
  let s3 := push (pushedStatus s2.cpu.p pushB) s2
  let s4 := setP (setFlag .i true s3.cpu.p) s3
  let target := readWord vector s4
  paceEntry cycles (setPc target.1 target.2)

/-- R284, R413: the return from an interrupt: P pulled with B cleared and U set, then PC low, PC high. -/
def returnFromInterrupt (s : State) : State :=
  let v := pull s
  let s1 := setP (pulledStatus v.1) v.2
  let lo := pull s1
  let hi := pull lo.2
  setPc (mkWord hi.1 lo.1) hi.2

/-- R401: "Forces U=1 before and after execute." -/
def forceU (s : State) : State := setP (setFlag .u true s.cpu.p) s

/-- R401, R402: `cycles_remaining` after an instruction of n cycles. -/
def remainingAfter (m : TickModel) (n : Nat) : Nat :=
  match m with
  | .n => n - 1
  | .nPlus1 => n

/-- R401: the common completion of an instruction of n cycles. -/
def complete (n : Nat) (s : State) : State :=
  let s1 := forceU s
  { s1 with
    cpu := { s1.cpu with
      totalCycles := s1.cpu.totalCycles + n
      cyclesRemaining := remainingAfter s1.config.tickModel n } }

end Sys2Proof.Machine
end

