-- ==== Sys2Proof/Machine/Operands.lean ====
section
/-! DEFINITION. Sys2Proof/Machine/Operands.lean: the addressing modes (R142 to R154), the operand helpers (R156), the read-modify-write form (R251), branches (R270), and the cycle counts of R158 with the penalties of R155 and R279. -/

namespace Sys2Proof.Machine

/-- The outcome of an addressing mode: the effective address, whether a page was crossed, and the state after the pointer reads. -/
structure Effective where
  ea : Word
  crossed : Bool
  state : State

/-- R150, R151, R154: base + index, and whether its page differs from the base's. -/
def indexed (base : Word) (index : Byte) (s : State) : Effective :=
  let ea := base + zext16 index
  { ea := ea, crossed := crossed base ea, state := s }

/-- R145 to R154: the effective address of a mode. -/
def effective (m : MemMode) (s : State) : Effective :=
  match m with
  | .zp b => { ea := zext16 b, crossed := false, state := s }
  | .zpx b => { ea := zext16 (b + s.cpu.x), crossed := false, state := s }
  | .zpy b => { ea := zext16 (b + s.cpu.y), crossed := false, state := s }
  | .abs w => { ea := w, crossed := false, state := s }
  | .absx w => indexed w s.cpu.x s
  | .absy w => indexed w s.cpu.y s
  | .izx b =>
    let r := readWordZP (b + s.cpu.x) s
    { ea := r.1, crossed := false, state := r.2 }
  | .izy b =>
    let r := readWordZP b s
    indexed r.1 r.2.cpu.y r.2

/-- R158: the base count of a read in a mode (LDA ... BIT, CPX, CPY). -/
def readBase : MemMode → Nat
  | .zp _ => 3
  | .zpx _ | .zpy _ | .abs _ | .absx _ | .absy _ => 4
  | .izx _ => 6
  | .izy _ => 5

/-- R158: the count of a store in a mode, the page-crossing cycle always in it (R155, R203). -/
def storeCycles : MemMode → Nat
  | .zp _ => 3
  | .zpx _ | .zpy _ | .abs _ => 4
  | .absx _ | .absy _ => 5
  | .izx _ | .izy _ => 6

/-- R158, R251: zp 5, zpx 6, abs 6, absx 7: two cycles more than a store in the same mode. -/
def rmwCycles (m : MemMode) : Nat := storeCycles m + 2

/-- A value read as an operand, the instruction's cycle count so far, and the state after the reads. -/
structure Operand where
  value : Byte
  cycles : Nat
  state : State

/-- R89, R156: one data read at the effective address; R155: one more cycle when a page was crossed. -/
def readMem (m : MemMode) (s : State) : Operand :=
  let e := effective m s
  let r := busRead e.ea e.state
  { value := r.1, cycles := readBase m + bitNat e.crossed, state := r.2 }

/-- R144, R156: `ReadOperand(mode)`; immediate takes 2 cycles and no data read. -/
def readOperand (o : ReadOperand) (s : State) : Operand :=
  match o with
  | .imm b => { value := b, cycles := 2, state := s }
  | .mem m => readMem m s

/-- R203 to R205: one data write at the effective address, which is not read. -/
def store (m : MemMode) (v : Byte) (s : State) : State :=
  let e := effective m s
  busWrite e.ea v e.state

/-- R251: the location is read once and written once. -/
def modifyMem (m : MemMode) (f : Byte → Cpu → RmwResult) (s : State) : State :=
  let e := effective m s
  let r := busRead e.ea e.state
  let res := f r.1 r.2.cpu
  busWrite e.ea res.value (setCpu res.cpu r.2)

/-- R143, R251: accumulator mode: A is the operand and takes the result; no memory access. -/
def modifyAcc (f : Byte → Cpu → RmwResult) (s : State) : State :=
  let res := f s.cpu.a s.cpu
  setCpu { res.cpu with a := res.value } s

/-- R247 to R251: a shift or rotate with its cycles: acc 2, memory as `rmwCycles`. -/
def modifyOperand (o : ShiftOperand) (f : Byte → Cpu → RmwResult) (s : State) : State :=
  match o with
  | .acc => complete 2 (modifyAcc f s)
  | .mem m => complete (rmwCycles m) (modifyMem m f s)

/-- R148: the branch target, from the address of the next instruction. -/
def branchTarget (pcNext : Word) (off : Byte) : Word := pcNext + sext16 off

/-- R279: `penalty_branch` of a taken branch. -/
def takenPenalty (pcNext target : Word) : Nat := 1 + bitNat (crossed pcNext target)

/-- R270: the common branch semantics. -/
def branch (cond : Bool) (off : Byte) (s : State) : State :=
  let target := branchTarget s.cpu.pc off
  if cond then complete (2 + takenPenalty s.cpu.pc target) (setPc target s) else complete 2 s

end Sys2Proof.Machine
end

