-- ==== Sys2Proof/Machine/ArithLogic.lean ====
section
/-! DEFINITION. Sys2Proof/Machine/ArithLogic.lean: arithmetic, logic, compare, increment and shift instructions (R230 to R252). P.D has no effect on any of them (R38, R252). -/

namespace Sys2Proof.Machine

/-- R230. -/
def execAdc (o : ReadOperand) (s : State) : Result :=
  let v := readOperand o s
  .next (complete v.cycles (setCpu (addWithCarry v.value v.state.cpu) v.state))

/-- R231: "SBC is ADC of the complemented operand". -/
def execSbc (o : ReadOperand) (s : State) : Result :=
  let v := readOperand o s
  .next (complete v.cycles (setCpu (addWithCarry (v.value ^^^ 0xFF) v.state.cpu) v.state))

/-- R233 to R235: the result of a bitwise operation into A, with N and Z. -/
def logicResult (res : Byte) (r : Cpu) : Cpu := setNZ res { r with a := res }

/-- R233. -/
def execAnd (o : ReadOperand) (s : State) : Result :=
  let v := readOperand o s
  .next (complete v.cycles (setCpu (logicResult (v.state.cpu.a &&& v.value) v.state.cpu) v.state))

/-- R234. -/
def execOra (o : ReadOperand) (s : State) : Result :=
  let v := readOperand o s
  .next (complete v.cycles (setCpu (logicResult (v.state.cpu.a ||| v.value) v.state.cpu) v.state))

/-- R235. -/
def execEor (o : ReadOperand) (s : State) : Result :=
  let v := readOperand o s
  .next (complete v.cycles (setCpu (logicResult (v.state.cpu.a ^^^ v.value) v.state.cpu) v.state))

/-- R236. -/
def execBit (m : MemMode) (s : State) : Result :=
  let v := readMem m s
  .next (complete v.cycles (setCpu (bitTest v.value v.state.cpu) v.state))

/-- R238. -/
def execCmp (o : ReadOperand) (s : State) : Result :=
  let v := readOperand o s
  .next (complete v.cycles (setCpu (compare v.state.cpu.a v.value v.state.cpu) v.state))

/-- R239. -/
def execCpx (o : ReadOperand) (s : State) : Result :=
  let v := readOperand o s
  .next (complete v.cycles (setCpu (compare v.state.cpu.x v.value v.state.cpu) v.state))

/-- R240. -/
def execCpy (o : ReadOperand) (s : State) : Result :=
  let v := readOperand o s
  .next (complete v.cycles (setCpu (compare v.state.cpu.y v.value v.state.cpu) v.state))

/-- R241. -/
def execInc (m : MemMode) (s : State) : Result := .next (complete (rmwCycles m) (modifyMem m incByte s))

/-- R242. -/
def execDec (m : MemMode) (s : State) : Result := .next (complete (rmwCycles m) (modifyMem m decByte s))

/-- R243. -/
def execInx (s : State) : Result :=
  .next (complete 2 (setCpu (setNZ (s.cpu.x + 1) { s.cpu with x := s.cpu.x + 1 }) s))

/-- R244. -/
def execIny (s : State) : Result :=
  .next (complete 2 (setCpu (setNZ (s.cpu.y + 1) { s.cpu with y := s.cpu.y + 1 }) s))

/-- R245. -/
def execDex (s : State) : Result :=
  .next (complete 2 (setCpu (setNZ (s.cpu.x - 1) { s.cpu with x := s.cpu.x - 1 }) s))

/-- R246. -/
def execDey (s : State) : Result :=
  .next (complete 2 (setCpu (setNZ (s.cpu.y - 1) { s.cpu with y := s.cpu.y - 1 }) s))

/-- R247. -/
def execAsl (o : ShiftOperand) (s : State) : Result := .next (modifyOperand o aslByte s)

/-- R248. -/
def execLsr (o : ShiftOperand) (s : State) : Result := .next (modifyOperand o lsrByte s)

/-- R249. -/
def execRol (o : ShiftOperand) (s : State) : Result := .next (modifyOperand o rolByte s)

/-- R250. -/
def execRor (o : ShiftOperand) (s : State) : Result := .next (modifyOperand o rorByte s)

end Sys2Proof.Machine
end

