-- ==== Sys2Proof/Machine/ControlFlow.lean ====
section
/-! DEFINITION. Sys2Proof/Machine/ControlFlow.lean: branches, jumps, subroutines and the software interrupt (R270 to R284). -/

namespace Sys2Proof.Machine

/-- R271. -/
def execBcc (off : Byte) (s : State) : Result := .next (branch (!s.cpu.flag .c) off s)

/-- R272. -/
def execBcs (off : Byte) (s : State) : Result := .next (branch (s.cpu.flag .c) off s)

/-- R273. -/
def execBeq (off : Byte) (s : State) : Result := .next (branch (s.cpu.flag .z) off s)

/-- R274. -/
def execBmi (off : Byte) (s : State) : Result := .next (branch (s.cpu.flag .n) off s)

/-- R275. -/
def execBne (off : Byte) (s : State) : Result := .next (branch (!s.cpu.flag .z) off s)

/-- R276. -/
def execBpl (off : Byte) (s : State) : Result := .next (branch (!s.cpu.flag .n) off s)

/-- R277. -/
def execBvc (off : Byte) (s : State) : Result := .next (branch (!s.cpu.flag .v) off s)

/-- R278. -/
def execBvs (off : Byte) (s : State) : Result := .next (branch (s.cpu.flag .v) off s)

/-- R280: abs 3 cycles, ind 5. -/
def execJmp (o : JumpOperand) (s : State) : Result :=
  match o with
  | .abs w => .next (complete 3 (setPc w s))
  | .ind w =>
    let r := readWordJmpInd w s
    .next (complete 5 (setPc r.1 r.2))

/-- R281: PC0 is three bytes back; the pushed address is PC0 + 2. -/
def execJsr (target : Word) (s : State) : Result :=
  let pc0 := s.cpu.pc - 3
  let ret := pc0 + 2
  .next (complete 6 (setPc target (push (loByte ret) (push (hiByte ret) s))))

/-- R282. -/
def execRts (s : State) : Result :=
  let lo := pull s
  let hi := pull lo.2
  .next (complete 6 (setPc (mkWord hi.1 lo.1 + 1) hi.2))

/-- R283: PC0 is one byte back; the saved PC is PC0 + 2. Whether I was 0 is kept for the poll after it (assumption 28, DESIGN CHOICE, safe). -/
def execBrk (s : State) : Result :=
  let pc0 := s.cpu.pc - 1
  .next (complete 7 (setBrkUnmasked (!s.cpu.flag .i) (enterInterrupt 0xFFFE true none (setPc (pc0 + 2) s))))

/-- R284. -/
def execRti (s : State) : Result := .next (complete 6 (returnFromInterrupt s))

end Sys2Proof.Machine
end

