-- ==== Sys2Proof/Machine/FlagsMisc.lean ====
section
/-! DEFINITION. Sys2Proof/Machine/FlagsMisc.lean: flag instructions, NOP and the illegal opcodes (R300 to R308). -/

namespace Sys2Proof.Machine

/-- R300. -/
def execClc (s : State) : Result := .next (complete 2 (setCpu (s.cpu.setFlag .c false) s))

/-- R301. -/
def execSec (s : State) : Result := .next (complete 2 (setCpu (s.cpu.setFlag .c true) s))

/-- R302. -/
def execCli (s : State) : Result := .next (complete 2 (setCpu (s.cpu.setFlag .i false) s))

/-- R303. -/
def execSei (s : State) : Result := .next (complete 2 (setCpu (s.cpu.setFlag .i true) s))

/-- R304. -/
def execCld (s : State) : Result := .next (complete 2 (setCpu (s.cpu.setFlag .d false) s))

/-- R305. -/
def execSed (s : State) : Result := .next (complete 2 (setCpu (s.cpu.setFlag .d true) s))

/-- R306. -/
def execClv (s : State) : Result := .next (complete 2 (setCpu (s.cpu.setFlag .v false) s))

/-- R307: nothing but the completion. -/
def execNop (s : State) : Result := .next (complete 2 s)

/-- R308: "treated as a 2-cycle no-op (NOP). Never a fatal error.", whatever the opcode byte. -/
def execNopIllegal (_opcode : Byte) (s : State) : Result := .next (complete 2 s)

end Sys2Proof.Machine
end

