-- ==== Sys2Proof/Machine/LoadStore.lean ====
section
/-! DEFINITION. Sys2Proof/Machine/LoadStore.lean: loads, stores, transfers and stack instructions (R200 to R215). Every meaning starts with PC past the instruction (R34, R141) and ends with the completion of R401. -/

namespace Sys2Proof.Machine

/-- R200. -/
def execLda (o : ReadOperand) (s : State) : Result :=
  let v := readOperand o s
  .next (complete v.cycles (setCpu (setNZ v.value { v.state.cpu with a := v.value }) v.state))

/-- R201. -/
def execLdx (o : ReadOperand) (s : State) : Result :=
  let v := readOperand o s
  .next (complete v.cycles (setCpu (setNZ v.value { v.state.cpu with x := v.value }) v.state))

/-- R202. -/
def execLdy (o : ReadOperand) (s : State) : Result :=
  let v := readOperand o s
  .next (complete v.cycles (setCpu (setNZ v.value { v.state.cpu with y := v.value }) v.state))

/-- R203. -/
def execSta (m : MemMode) (s : State) : Result := .next (complete (storeCycles m) (store m s.cpu.a s))

/-- R204. -/
def execStx (m : MemMode) (s : State) : Result := .next (complete (storeCycles m) (store m s.cpu.x s))

/-- R205. -/
def execSty (m : MemMode) (s : State) : Result := .next (complete (storeCycles m) (store m s.cpu.y s))

/-- R206. -/
def execTax (s : State) : Result := .next (complete 2 (setCpu (setNZ s.cpu.a { s.cpu with x := s.cpu.a }) s))

/-- R207. -/
def execTay (s : State) : Result := .next (complete 2 (setCpu (setNZ s.cpu.a { s.cpu with y := s.cpu.a }) s))

/-- R208. -/
def execTxa (s : State) : Result := .next (complete 2 (setCpu (setNZ s.cpu.x { s.cpu with a := s.cpu.x }) s))

/-- R209. -/
def execTya (s : State) : Result := .next (complete 2 (setCpu (setNZ s.cpu.y { s.cpu with a := s.cpu.y }) s))

/-- R210. -/
def execTsx (s : State) : Result := .next (complete 2 (setCpu (setNZ s.cpu.sp { s.cpu with x := s.cpu.sp }) s))

/-- R211: TXS writes no flag. -/
def execTxs (s : State) : Result := .next (complete 2 (setSp s.cpu.x s))

/-- R212. -/
def execPha (s : State) : Result := .next (complete 3 (push s.cpu.a s))

/-- R213. -/
def execPla (s : State) : Result :=
  let v := pull s
  .next (complete 4 (setCpu (setNZ v.1 { v.2.cpu with a := v.1 }) v.2))

/-- R214: "PHP pushes status with B=U=1". -/
def execPhp (s : State) : Result := .next (complete 3 (push (s.cpu.p ||| 0x30) s))

/-- R215. -/
def execPlp (s : State) : Result :=
  let v := pull s
  .next (complete 4 (setP (pulledStatus v.1) v.2))

end Sys2Proof.Machine
end

