-- ==== Sys2Proof/Machine/PpuRender.lean ====
section
/-! DEFINITION. Sys2Proof/Machine/PpuRender.lean: the PPU's timing grid, background renderer, sprite evaluator and sprite renderer, and pixel output (R513 to R537). `c` is the cartridge, which the renderer only reads. -/

namespace Sys2Proof.Machine

/-- R520. -/
def incrementX (v : BitVec 15) : BitVec 15 :=
  if getField v 0 5 = 31 then putBit (putField v 0 (0 : BitVec 5)) 10 (!bitAt v 10)
  else putField v 0 (getField v 0 5 + 1)

/-- R520. -/
def incrementY (v : BitVec 15) : BitVec 15 :=
  if getField v 12 3 < 7 then putField v 12 (getField v 12 3 + 1)
  else
    let v0 := putField v 12 (0 : BitVec 3)
    if getField v 5 5 = 29 then putBit (putField v0 5 (0 : BitVec 5)) 11 (!bitAt v 11)
    else if getField v 5 5 = 31 then putField v0 5 (0 : BitVec 5)
    else putField v0 5 (getField v 5 5 + 1)

/-- R520: "horizontal bits of t". -/
def transferX (t v : BitVec 15) : BitVec 15 := putField (putBit v 10 (bitAt t 10)) 0 (getField t 0 5)

/-- R520: "vertical bits of t". -/
def transferY (t v : BitVec 15) : BitVec 15 := putField (putField v 11 (getField t 11 4)) 5 (getField t 5 5)

/-- R521 `ShiftBackground()`. -/
def shiftBackground (p : Ppu) : Ppu :=
  { p with
    bgLo := p.bgLo <<< 1
    bgHi := p.bgHi <<< 1
    atLo := putBit (p.atLo <<< 1) 0 p.atLatchLo
    atHi := putBit (p.atHi <<< 1) 0 p.atLatchHi }

/-- R521 `LoadBackground()`. -/
def loadBackground (p : Ppu) : Ppu :=
  { p with
    bgLo := putField p.bgLo 0 p.loNext
    bgHi := putField p.bgHi 0 p.hiNext
    atLatchLo := bitAt p.atNext 0
    atLatchHi := bitAt p.atNext 1 }

/-- R521: the nametable fetch `ppu_read($2000 | (v & $0FFF))`. -/
def fetchNametable (c : Cartridge) (p : Ppu) : Ppu :=
  { p with ntNext := ppuRead c p (0x2000 ||| (getField p.v 0 12).setWidth 14) }

/-- R523: the attribute address. -/
def attributeAddr (v : BitVec 15) : PpuAddr :=
  getField (0x23C0#15 ||| (v &&& 0x0C00#15) ||| ((v >>> 4) &&& 0x38#15) ||| ((v >>> 2) &&& 0x07#15)) 0 14

/-- R523 `AttributeFetch()`. -/
def attributeFetch (c : Cartridge) (p : Ppu) : BitVec 2 :=
  let b := ppuRead c p (attributeAddr p.v)
  let b := if bitAt p.v 6 then b >>> 4 else b
  let b := if bitAt p.v 1 then b >>> 2 else b
  getField b 0 2

/-- R521: the pattern address `ctrl[4]*$1000 + nt_next*16 + v[14:12]`. -/
def patternAddr (p : Ppu) : PpuAddr :=
  BitVec.ofNat 14 (bitNat (bitAt p.ctrl 4) * 0x1000 + p.ntNext.toNat * 16 + (getField p.v 12 3).toNat)

/-- R532: one unit of `ShiftSprites()`. -/
def shiftSprite (u : SpriteUnit) : SpriteUnit :=
  if u.x = 0 then { u with lo := u.lo <<< 1, hi := u.hi <<< 1 } else { u with x := u.x - 1 }

/-- R532 `ShiftSprites()`: the first `sprite_count` units. -/
def shiftSprites (p : Ppu) : Ppu :=
  { p with sprites := (p.sprites.take p.spriteCount).map shiftSprite ++ p.sprites.drop p.spriteCount }

/-- R521: the case on `(cycle - 1) mod 8`. -/
def backgroundFetch (c : Cartridge) (p : Ppu) : Ppu :=
  match (p.cycle - 1) % 8 with
  | 0 => fetchNametable c (loadBackground p)
  | 2 => { p with atNext := attributeFetch c p }
  | 4 => { p with loNext := ppuRead c p (patternAddr p) }
  | 6 => { p with hiNext := ppuRead c p (patternAddr p + 8) }
  | 7 => if renderingEnabled p then { p with v := incrementX p.v } else p
  | _ => p

/-- R521: the shift and fetch window, dots 2..257 and 321..337. -/
def backgroundWindow (c : Cartridge) (p : Ppu) : Ppu :=
  if (2 ≤ p.cycle ∧ p.cycle ≤ 257) ∨ (321 ≤ p.cycle ∧ p.cycle ≤ 337) then
    let p1 := if bitAt p.mask 3 then shiftBackground p else p
    let p2 := if bitAt p.mask 4 && decide (p.cycle ≤ 257) then shiftSprites p1 else p1
    backgroundFetch c p2
  else p

/-- R521: what follows the window in `BackgroundStep()`: dots 256, 257, 338, 340 and 280..304. -/
def backgroundScroll (c : Cartridge) (p : Ppu) : Ppu :=
  let p1 := if p.cycle = 256 ∧ renderingEnabled p then { p with v := incrementY p.v } else p
  let p2 :=
    if p1.cycle = 257 then
      let q := loadBackground p1
      if renderingEnabled q then { q with v := transferX q.t q.v } else q
    else p1
  let p3 := if p2.cycle = 338 ∨ p2.cycle = 340 then fetchNametable c p2 else p2
  if p3.scanline = -1 ∧ 280 ≤ p3.cycle ∧ p3.cycle ≤ 304 ∧ renderingEnabled p3 then { p3 with v := transferY p3.t p3.v } else p3

/-- R521 `BackgroundStep()`. -/
def backgroundStep (c : Cartridge) (p : Ppu) : Ppu := backgroundScroll c (backgroundWindow c p)

/-- R530: h, the sprite height. -/
def spriteHeight (p : Ppu) : Nat := if bitAt p.ctrl 5 then 16 else 8

/-- What the scan of R530 has found so far. -/
structure SpriteScan where
  found : Nat
  secondary : Memory
  sprite0 : Bool
deriving DecidableEq, Repr

/-- R530: one entry e of the scan: in range when 0 <= scanline - OAM[4e] < h; the first eight in range are copied. -/
def scanEntry (p : Ppu) (acc : SpriteScan) (e : Nat) : SpriteScan :=
  let diff := p.scanline - (p.oam.read (4 * e)).toNat
  if 0 ≤ diff ∧ diff < spriteHeight p then
    if acc.found < 8 then
      { found := acc.found + 1
        secondary := acc.secondary.writeAll (4 * acc.found)
          [p.oam.read (4 * e), p.oam.read (4 * e + 1), p.oam.read (4 * e + 2), p.oam.read (4 * e + 3)]
        sprite0 := acc.sprite0 || e == 0 }
    else { acc with found := acc.found + 1 }
  else acc

/-- R530: the scan of all 64 entries, from a secondary OAM of $FF bytes. -/
def spriteScan (p : Ppu) : SpriteScan :=
  (List.range 64).foldl (scanEntry p)
    { found := 0, secondary := Memory.ofBytes (List.replicate 32 0xFF), sprite0 := false }

/-- R530: "clear every sprite shifter and x counter"; the attribute, which the rule does not name, is kept. -/
def clearUnit (u : SpriteUnit) : SpriteUnit := { u with lo := 0, hi := 0, x := 0 }

/-- R530: sprite evaluation, for the next scanline. -/
def evaluateSprites (p : Ppu) : Ppu :=
  let r := spriteScan p
  { p with
    secondaryOam := r.secondary
    sprite0Next := r.sprite0
    sprites := p.sprites.map clearUnit
    spriteCount := min r.found 8
    status := if 8 < r.found then putBit p.status 5 true else p.status }

/-- R531: the pattern address of a sprite row; the sum is taken modulo $4000 (assumption 11, DESIGN CHOICE, unsafe). -/
def spritePatternAddr (p : Ppu) (tile attr : Byte) (y : Byte) : PpuAddr :=
  let h : Int := spriteHeight p
  let row0 : Int := p.scanline - y.toNat
  let row := if bitAt attr 7 then h - 1 - row0 else row0
  if bitAt p.ctrl 5 then
    BitVec.ofNat 14 (bitNat (bitAt tile 0) * 0x1000 + ((tile &&& 0xFE).toNat + (if 8 ≤ row then 1 else 0)) * 16 + (row % 8).toNat)
  else BitVec.ofInt 14 ((bitNat (bitAt p.ctrl 3) * 0x1000 + tile.toNat * 16 : Nat) + row)

/-- R531: the unit loaded from entry i of secondary OAM. -/
def fetchSprite (c : Cartridge) (p : Ppu) (i : Nat) : SpriteUnit :=
  let y := p.secondaryOam.read (4 * i)
  let tile := p.secondaryOam.read (4 * i + 1)
  let attr := p.secondaryOam.read (4 * i + 2)
  let addr := spritePatternAddr p tile attr y
  let lo := ppuRead c p addr
  let hi := ppuRead c p (addr + 8)
  { lo := if bitAt attr 6 then reverse8 lo else lo
    hi := if bitAt attr 6 then reverse8 hi else hi
    attr := attr
    x := p.secondaryOam.read (4 * i + 3) }

/-- R531: sprite pattern fetch for every i < sprite_count. `sprite0_line` is assigned once, also when sprite_count is 0 (assumption 26,
DESIGN CHOICE, safe: the rule has the line in the block run for each i; no pixel differs). -/
def fetchSprites (c : Cartridge) (p : Ppu) : Ppu :=
  { p with
    sprites := (List.range p.spriteCount).map (fetchSprite c p) ++ p.sprites.drop p.spriteCount
    sprite0Line := p.sprite0Next }

/-- R530, R531 `SpriteStep()`: evaluation at dot 257, pattern fetch at dot 340, of scanlines 0..239 with rendering enabled. -/
def spriteStep (c : Cartridge) (p : Ppu) : Ppu :=
  if 0 ≤ p.scanline ∧ p.scanline ≤ 239 ∧ renderingEnabled p then
    if p.cycle = 257 then evaluateSprites p
    else if p.cycle = 340 then fetchSprites c p
    else p
  else p

/-- R514 `VBlankStart()`. -/
def vblankStart (p : Ppu) : Ppu :=
  { p with status := putBit p.status 7 true, nmiPending := p.nmiPending || bitAt p.ctrl 7 }

/-- R514: "all sprite shifters <- 0". -/
def clearShifter (u : SpriteUnit) : SpriteUnit := { u with lo := 0, hi := 0 }

/-- R514 `PreRenderClear()`. -/
def preRenderClear (p : Ppu) : Ppu :=
  { p with
    status := p.status &&& 0x1F
    spriteCount := 0
    sprites := p.sprites.map clearShifter
    frameComplete := true }

/-- A pixel before colouring: its 2-bit value and its palette (R522, R533). -/
structure Pixel where
  value : BitVec 2
  palette : BitVec 3
deriving DecidableEq, Repr

/-- R522: the background pixel at dot `cycle` (x = cycle - 1). -/
def backgroundPixel (p : Ppu) : Pixel :=
  if !bitAt p.mask 3 || (decide (p.cycle - 1 < 8) && !bitAt p.mask 1) then { value := 0, palette := 0 }
  else
    let k := p.fineX.toNat
    { value := BitVec.ofBool (bitAt p.bgHi (15 - k)) ++ BitVec.ofBool (bitAt p.bgLo (15 - k))
      palette := (BitVec.ofBool (bitAt p.atHi (7 - k)) ++ BitVec.ofBool (bitAt p.atLo (7 - k))).setWidth 3 }

/-- The sprite pixel of R533: `fg_pixel`, `fg_palette`, `fg_behind`, `sprite0_here`. -/
structure SpritePixel where
  pixel : Pixel
  behind : Bool
  sprite0 : Bool
deriving DecidableEq, Repr

/-- R533: no sprite pixel. -/
def SpritePixel.none : SpritePixel := { pixel := { value := 0, palette := 0 }, behind := false, sprite0 := false }

/-- R533: the first opaque pixel of the units from number i on ("lower index wins"). -/
def firstSpritePixel : Nat → List SpriteUnit → SpritePixel
  | _, [] => SpritePixel.none
  | i, u :: us =>
    let v : BitVec 2 := BitVec.ofBool (bitAt u.hi 7) ++ BitVec.ofBool (bitAt u.lo 7)
    if u.x = 0 ∧ v ≠ 0 then
      { pixel := { value := v, palette := (getField u.attr 0 2).setWidth 3 + 4 }
        behind := bitAt u.attr 5
        sprite0 := i == 0 }
    else firstSpritePixel (i + 1) us

/-- R533: the sprite pixel at dot `cycle`. -/
def spritePixel (p : Ppu) : SpritePixel :=
  if bitAt p.mask 4 && !(decide (p.cycle - 1 < 8) && !bitAt p.mask 2) then
    firstSpritePixel 0 (p.sprites.take p.spriteCount)
  else SpritePixel.none

/-- R533: "the background/sprite priority table". -/
def composePixel (bg : Pixel) (fg : SpritePixel) : Pixel :=
  if bg.value = 0 then (if fg.pixel.value = 0 then { value := 0, palette := 0 } else fg.pixel)
  else if fg.pixel.value = 0 then bg
  else if fg.behind then bg
  else fg.pixel

/-- R534: whether sprite-zero hit is set at this dot. -/
def spriteZeroHit (p : Ppu) (bg : Pixel) (fg : SpritePixel) : Bool :=
  bg.value != 0 && fg.pixel.value != 0 && p.sprite0Line && fg.sprite0 && bitAt p.mask 3 && bitAt p.mask 4
    && decide (1 ≤ p.cycle ∧ p.cycle ≤ 255)
    && !((!bitAt p.mask 1 || !bitAt p.mask 2) && decide (p.cycle < 9))

/-- R536: the palette address of a pixel. -/
def pixelAddr (px : Pixel) : PpuAddr :=
  if px.value = 0 then 0x3F00 else BitVec.ofNat 14 (0x3F00 + px.palette.toNat * 4 + px.value.toNat)

/-- R536: an opaque ARGB word, `$FF000000 | MASTER_PALETTE[...]`. -/
def argb (colour : BitVec 6) : BitVec 32 := (0xFF : BitVec 8) ++ Config.masterPalette colour

/-- R533 to R536 `OutputPixel()`. -/
def outputPixel (c : Cartridge) (p : Ppu) : Ppu :=
  let bg := backgroundPixel p
  let fg := spritePixel p
  { p with
    status := if spriteZeroHit p bg fg then putBit p.status 6 true else p.status
    frameBuffer := p.frameBuffer.write (p.scanline.toNat * 256 + (p.cycle - 1))
      (argb (getField (ppuRead c p (pixelAddr (composePixel bg fg))) 0 6)) }

/-- R513: the skip of dot (0, 0) on an odd frame with rendering enabled. -/
def skipDot (p : Ppu) : Ppu :=
  if p.scanline = 0 ∧ p.cycle = 0 ∧ p.oddFrame ∧ renderingEnabled p then { p with cycle := 1 } else p

/-- R513: what a dot of lines -1..239 does before pixel output; R537 sets the A12 flag at dot 260. -/
def renderLine (c : Cartridge) (p : Ppu) : Ppu :=
  if -1 ≤ p.scanline ∧ p.scanline ≤ 239 then
    let p1 := if p.scanline = -1 ∧ p.cycle = 1 then preRenderClear p else p
    let p2 := spriteStep c (backgroundStep c p1)
    if p2.cycle = 260 ∧ renderingEnabled p2 then { p2 with scanlineIrqFlag := true } else p2
  else p

/-- R513: VBlank start at (241, 1), then pixel output at dots 1..256 of lines 0..239. -/
def dotEvents (c : Cartridge) (p : Ppu) : Ppu :=
  let p1 := if p.scanline = 241 ∧ p.cycle = 1 then vblankStart p else p
  if 0 ≤ p1.scanline ∧ p1.scanline ≤ 239 ∧ 1 ≤ p1.cycle ∧ p1.cycle ≤ 256 then outputPixel c p1 else p1

/-- R513: the position moves on; at the wrap from line 260 to -1 `odd_frame` toggles. -/
def advanceDot (p : Ppu) : Ppu :=
  if p.cycle + 1 = 341 then
    if p.scanline + 1 = 261 then { p with cycle := 0, scanline := -1, oddFrame := !p.oddFrame }
    else { p with cycle := 0, scanline := p.scanline + 1 }
  else { p with cycle := p.cycle + 1 }

/-- R513 `ppu.dot()`. -/
def ppuDot (c : Cartridge) (p : Ppu) : Ppu := advanceDot (dotEvents c (renderLine c (skipDot p)))

end Sys2Proof.Machine
end

