-- ==== Sys2Proof/Machine/Clock.lean ====
section
/-! DEFINITION. Sys2Proof/Machine/Clock.lean: fetch and decode (R141), `clock()` (R401), OAM DMA (R580), interrupts polled and entered (R404 to R411), the CPU slot (R431) and the master cycle (R430). -/

namespace Sys2Proof.Machine

/-- The next state of an outcome changed; a fault or a refusal kept. -/
def mapNext (f : State → State) : Result → Result
  | .next s => .next (f s)
  | .fault r => .fault r
  | .refused r => .refused r

/-- R141: one instruction byte read at PC, PC moved on. -/
def fetchByte (s : State) : Byte × State :=
  let r := busRead s.cpu.pc s
  (r.1, setPc (r.2.cpu.pc + 1) r.2)

/-- An operand byte, fetched only when the instruction has it. -/
def fetchByteIf (present : Bool) (s : State) : Byte × State := if present then fetchByte s else (0, s)

/-- R141: the opcode, then the operand bytes its length asks for; the instruction they decode to, PC past them. -/
def fetch (s : State) : Instr × State :=
  let op := fetchByte s
  let b1 := fetchByteIf (decide (2 ≤ opcodeLength op.1)) op.2
  let b2 := fetchByteIf (decide (3 ≤ opcodeLength op.1)) b1.2
  (decodeByte op.1 b1.1 b2.1, b2.2)

/-- R401: a tick of an instruction already executed. -/
def decrementCycles (s : State) : State := { s with cpu := { s.cpu with cyclesRemaining := s.cpu.cyclesRemaining - 1 } }

/-- R401: what precedes a fetch: U forced to 1. No BRK is the last instruction any more (assumption 28, DESIGN CHOICE, safe). -/
def beginInstruction (s : State) : State := forceU (setBrkUnmasked false s)

/-- R401 `clock()`. exec starts with PC past the instruction (assumption 21, DESIGN CHOICE, safe). -/
def clock (s : State) : Result :=
  if 0 < s.cpu.cyclesRemaining then .next (decrementCycles s)
  else
    let i := fetch (beginInstruction s)
    exec i.1 i.2

/-- R580 `DmaStep(c)`. -/
def dmaStep (c : Nat) (s : State) : State :=
  if s.dma.dummy then
    if c % 2 = 1 then { s with dma := { s.dma with dummy := false } } else s
  else if c % 2 = 0 then
    let b := busRead (mkWord s.dma.page s.dma.addr) s
    { b.2 with dma := { b.2.dma with data := b.1 } }
  else
    let last := s.dma.addr + 1 = 0
    { s with
      ppu := { s.ppu with oam := s.ppu.oam.write s.dma.addr.toNat s.dma.data }
      dma := { s.dma with
        addr := s.dma.addr + 1
        transferring := if last then false else s.dma.transferring
        dummy := if last then true else s.dma.dummy } }

/-- R404 `AtBoundary()`. -/
def atBoundary (s : State) : Bool := s.cpu.cyclesRemaining == 0 && !s.dma.transferring && s.dmcStall == 0

/-- R411 `nmi()`. -/
def nmi (s : State) : State := enterInterrupt 0xFFFA false (some 8) s

/-- R405: whether an IRQ is masked: by I, as the last instruction left it. At the boundary after a BRK executed with I = 0 the parameter
`brkIrq` has both readings: BRK's I masks it (R405, R406), or it is entered there (R283, R409) (assumption 28, DESIGN CHOICE, safe). -/
def irqMasked (s : State) : Bool := s.cpu.flag .i && !(s.config.brkIrq == .entered && s.cpu.brkUnmasked)

/-- R411 `irq()`: gated by the I flag. -/
def irq (s : State) : State := if irqMasked s then s else enterInterrupt 0xFFFE false (some 7) s

/-- The APU's level terms of the IRQ line (R421, R422, R424). -/
def apuIrq (s : State) : Bool := s.apu.frame.irq || s.apu.dmc.irq

/-- R425 `MapperIrq()`: the pending bit, cleared by the read under `drain`. -/
def mapperIrq (s : State) : Bool × State :=
  (s.cart.mapper.irqPending,
    match s.config.mapperIrqRetention with
    | .hold => s
    | .drain => { s with cart := { s.cart with mapper := { s.cart.mapper with irqPending := false } } })

/-- R424: the IRQ line at a poll, and the state after the mapper bit is read (assumption 6, DESIGN CHOICE, safe: whether it is read when an APU flag is set). -/
def irqLine (s : State) : Bool × State :=
  if apuIrq s && s.config.irqOrShortCircuits then (true, s)
  else
    let m := mapperIrq s
    (apuIrq s || m.1, m.2)

/-- R406 `InterruptPoll()`. The poll after reset's eighth slot is at a boundary, as R404 says, so that under `drain` it reads and clears a
mapper's bit (assumption 30, DEDUCED, unsafe: R702 says that every poll before the first fetch sees `cycles_remaining` above 0). -/
def interruptPoll (s : State) : State :=
  if atBoundary s then
    if s.ppu.nmiPending then nmi { s with ppu := { s.ppu with nmiPending := false } }
    else
      let l := irqLine s
      if l.1 then irq l.2 else l.2
  else s

/-- R431: what ends every CPU slot: `apu.tick()`, `mapper.cpu_tick()`, the poll, the slot count. -/
def endSlot (s : State) : State :=
  let s1 := apuTick s
  let s2 := interruptPoll { s1 with cart := mapperCpuTick s1.cart }
  { s2 with cpuTickCount := s2.cpuTickCount + 1 }

/-- R431: who has the slot: DMA, a DMC stall, or the CPU. -/
def slotWork (s : State) : Result :=
  if s.dma.transferring then .next (dmaStep s.cpuTickCount s)
  else if 0 < s.dmcStall then .next { s with dmcStall := s.dmcStall - 1 }
  else clock s

/-- R431 `CpuSlot()`. -/
def cpuSlot (s : State) : Result := mapNext endSlot (slotWork s)

/-- R430: the PPU dot of a master cycle, and the A12 notification it may raise. -/
def dotPhase (s : State) : State :=
  let p := ppuDot s.cart s.ppu
  if p.scanlineIrqFlag then { s with ppu := { p with scanlineIrqFlag := false }, cart := mapperScanlineTick s.cart }
  else { s with ppu := p }

/-- R430: `master_count <- master_count + 1`. -/
def endTick (s : State) : State := { s with masterCount := s.masterCount + 1 }

/-- R430 `tick()`, one master cycle of the System. -/
def tick (s : State) : Result :=
  let s1 := dotPhase s
  mapNext endTick (if s1.masterCount % 3 = 0 then cpuSlot s1 else .next s1)

/-- Where a byte of a program can be put so that a fetch at `a` reads it: RAM, PRG RAM, or an NROM cartridge's PRG ROM. -/
def holdsProgram (s : State) (a : Word) : Bool :=
  decide (a.toNat < 0x2000) || decide (0x6000 ≤ a.toNat ∧ a.toNat < 0x8000)
    || (decide (0x8000 ≤ a.toNat) && s.cart.variant == .nrom)

/-- A byte put where a fetch at `a` reads it, for an address that `holdsProgram`. -/
def placeByte (a : Word) (b : Byte) (s : State) : State :=
  if a.toNat < 0x2000 then { s with ram := s.ram.write (a.toNat % 0x800) b }
  else if a.toNat < 0x8000 then { s with cart := { s.cart with prgRam := s.cart.prgRam.write (a.toNat - 0x6000) b } }
  else
    { s with
      cart := { s.cart with prgRom := s.cart.prgRom.write ((a.toNat - 0x8000) % s.cart.prgSize % s.cart.prgSize) b } }

/-- The bytes put at `a`, `a + 1`, .... -/
def placeBytes (a : Word) : List Byte → State → State
  | [], s => s
  | b :: bs, s => placeBytes (a + 1) bs (placeByte a b s)

/-- The System made ready so that its very next master cycle executes an instruction: a ROM loaded, the CPU at a boundary, and the
master cycle one with a CPU slot (R404, R430). -/
def readyToFetch (s : State) : State :=
  { s with
    cpu := { s.cpu with cyclesRemaining := 0 }
    dma := { s.dma with transferring := false }
    dmcStall := 0
    masterCount := s.masterCount + (3 - s.masterCount % 3) % 3
    romLoaded := true }

/-- An instruction's bytes placed where the next fetch reads them: at PC where PC and the two addresses after it hold programs,
else at $0000 with PC moved there. -/
def placeProgram (bytes : List Byte) (s : State) : State :=
  if holdsProgram s s.cpu.pc && holdsProgram s (s.cpu.pc + 1) && holdsProgram s (s.cpu.pc + 2) then
    placeBytes s.cpu.pc bytes s
  else placeBytes 0 bytes (setPc 0 s)

end Sys2Proof.Machine
end

