-- ==== Sys2Proof/Machine/Step.lean ====
section
/-! DEFINITION. Sys2Proof/Machine/Step.lean: one step of the machine: one master cycle (R430) of a System that holds a ROM (R710, D55). -/

namespace Sys2Proof.Machine

/-- One master cycle (assumption 1, DESIGN CHOICE, safe); an empty System is refused with `NoRomLoaded` (R711). -/
def step (s : State) : Host.Outcome State Fault Refusal :=
  if s.romLoaded then tick s else .refused .noRomLoaded

/-- The instruction word of spec/opcode_table.json placed so that the very next step fetches and runs it (assumption 2, DESIGN CHOICE, safe). -/
def State.withFetchWord (s : State) (nbits w : Nat) : State :=
  placeProgram (Sys2Proof.tableBytes nbits w) (readyToFetch s)

end Sys2Proof.Machine
end

