-- ==== Sys2Proof/Machine/HostCalls.lean ====
section
/-! DEFINITION. Sys2Proof/Machine/HostCalls.lean: the host entry points (R710 to R713, R720, R722, R742): `new`, `load_rom` with the iNES loader (R600 to R604), `reset`, `run_frame`, `frame_buffer`, `read_audio`, `set_audio_sample_rate`, `set_button` (R572), `save_state`, `load_state`. The host acts between frames, outside step (assumption 23, DESIGN CHOICE, safe). -/

namespace Sys2Proof.Machine

/-- R711: the typed failures of the host entry points. -/
inductive HostError
  /-- load_rom: "iNES magic missing or header inconsistent" -/
  | unsupportedRom
  /-- load_rom: "mapper n is not among the supported variants" -/
  | unsupportedMapper (n : Nat)
  /-- load_state: blob version ≠ 1 -/
  | saveStateVersionMismatch (found expected : Nat)
  /-- load_state: "deserialization failed" -/
  | saveStateCorrupt
  /-- every entry point but load_rom and set_audio_sample_rate, before the first successful load_rom -/
  | noRomLoaded
  /-- set_audio_sample_rate: the rate is not positive (assumption 14, DESIGN CHOICE, safe) -/
  | sampleRateNotPositive
deriving DecidableEq, Repr

/-- What an entry point that changes the System answers; on an error the System is unchanged (D53). -/
inductive HostResult
  | ok (s : State)
  | error (e : HostError)
deriving DecidableEq, Repr

/-- R700 `reset()`. A, X and Y are the parameters RESET_AXY, the same at every `reset()` and `load_rom` of a run (assumption 4, DESIGN CHOICE,
unsafe: D11 says "drawn freely at reset", and not that two resets draw alike). -/
def systemReset (s : State) : State :=
  let s1 : State :=
    { s with
      ram := []
      cart := mapperReset s.cart
      ppu := Ppu.reset
      apu := Apu.reset s.apu.audio.sampleRate
      pads := { s.pads with shift1 := 0, shift2 := 0 }
      dma := Dma.reset
      dmcStall := 0
      masterCount := 0
      cpuTickCount := 0 }
  let pc := readWord 0xFFFC s1
  { pc.2 with
    cpu := { a := s1.config.resetA, x := s1.config.resetX, y := s1.config.resetY, sp := 0xFD, pc := pc.1, p := 0x24
             cyclesRemaining := 8, totalCycles := s1.config.resetTotalCycles, brkUnmasked := false } }

/-- R603: the supported mapper numbers. -/
def mapperOfNumber (n : Nat) : Option MapperVariant :=
  match n with
  | 0 => some .nrom
  | 1 => some .mmc1
  | 2 => some .uxrom
  | 3 => some .cnrom
  | 4 => some .mmc3
  | 7 => some .axrom
  | 11 => some .colorDreams
  | 15 => some .multi100in1
  | 16 => some .bandaiFcg
  | 23 => some .vrc24
  | 66 => some .gxrom
  | 71 => some .camerica
  | 113 => some .nina
  | 202 => some .multi150in1
  | 225 => some .multi52in1
  | 227 => some .multi1200in1
  | 245 => some .waixingMmc3
  | 253 => some .waixingVrc4
  | _ => none

/-- R600, R604: the header fields of bytes 4 to 7. -/
def parseHeader (byte4 byte5 byte6 byte7 : Byte) : Header :=
  { prgBanks := byte4
    chrBanks := byte5
    mapper := (byte6 >>> 4) ||| (byte7 &&& 0xF0)
    mirroring := if bitAt byte6 3 then .fourScreen else if bitAt byte6 0 then .vertical else .horizontal
    battery := bitAt byte6 1
    trainer := bitAt byte6 2
    nes2 := getField byte7 2 2 == 2 }

/-- R600: `prg_size`. -/
def Header.prgSize (h : Header) : Nat := h.prgBanks.toNat * 16384

/-- R600: `chr_size`. -/
def Header.chrSize (h : Header) : Nat := h.chrBanks.toNat * 8192

/-- R601: where the PRG ROM starts in the file. -/
def Header.prgOffset (h : Header) : Nat := 16 + 512 * bitNat h.trainer

/-- R594, R602: the base size of the CHR memory: the CHR ROM's, or 8 KB of CHR RAM. -/
def Header.chrBase (h : Header) : Nat := if h.chrBanks = 0 then 8192 else h.chrSize

/-- R602: mapper 253 appends 8 KB of CHR RAM. -/
def chrAppended (v : MapperVariant) : Nat := if v = .waixingVrc4 then 8192 else 0

/-- R594: where the CHR RAM starts. -/
def Header.chrRamStart (h : Header) : Nat := if h.chrBanks = 0 then 0 else h.chrSize

/-- R601, R602, R712: the cartridge of a file, PRG RAM and CHR RAM $00, the mapper at its power-on state. -/
def buildCartridge (h : Header) (v : MapperVariant) (bytes : List Byte) : Cartridge :=
  { header := h
    variant := v
    prgRom := Memory.ofBytes ((bytes.drop h.prgOffset).take h.prgSize)
    prgSize := h.prgSize
    chr := Memory.ofBytes ((bytes.drop (h.prgOffset + h.prgSize)).take h.chrSize)
    chrSize := h.chrBase + chrAppended v
    chrRamFrom := h.chrRamStart
    prgRam := []
    mirroring := h.mirroring
    mapper := mapperPowerOnRegs v }

/-- R600, R601, R603: the cartridge of an iNES file, or why it is refused. A file that is short, or has no PRG bank, and whose mapper is
unsupported too is `unsupportedRom` (assumption 27, DESIGN CHOICE, unsafe: the rules give no order). -/
def parseRom (bytes : List Byte) : Except HostError Cartridge :=
  match bytes with
  | 0x4E :: 0x45 :: 0x53 :: 0x1A :: b4 :: b5 :: b6 :: b7 :: _ =>
    let h := parseHeader b4 b5 b6 b7
    if h.prgSize = 0 ∨ bytes.length < h.prgOffset + h.prgSize + h.chrSize then .error .unsupportedRom
    else
      match mapperOfNumber h.mapper.toNat with
      | some v => .ok (buildCartridge h v bytes)
      | none => .error (.unsupportedMapper h.mapper.toNat)
  | _ => .error .unsupportedRom

/-- R712 `load_rom(bytes)`. -/
def loadRom (bytes : List Byte) (s : State) : HostResult :=
  match parseRom bytes with
  | .error e => .error e
  | .ok c => .ok (systemReset { s with cart := c, romLoaded := true })

/-- R710 `new()`: "Construct uninitialized System": no ROM loaded. -/
def newSystem : State := { State.reset with romLoaded := false }

/-- D55: an entry point that needs a ROM. -/
def whenLoaded (s : State) (r : HostResult) : HostResult := if s.romLoaded then r else .error .noRomLoaded

/-- R710 `reset()`. -/
def hostReset (s : State) : HostResult := whenLoaded s (.ok (systemReset s))

/-- R720: `tick()` until `frame_complete`, for at most `fuel` master cycles. -/
def runTicks : Nat → State → Result
  | 0, s => .next s
  | k + 1, s =>
    match step s with
    | .next t => if t.ppu.frameComplete then .next t else runTicks k t
    | .fault r => .fault r
    | .refused r => .refused r

/-- R720 `run_frame()`. A frame has at most 262 × 341 = 89342 dots, so dot (-1, 1) is reached within that many
(assumption 19, DEDUCED, safe). -/
def runFrame (s : State) : Result := runTicks 89342 { s with ppu := { s.ppu with frameComplete := false } }

/-- R710 `frame_buffer()`: the 256×240 ARGB array, read-only. -/
def readFrameBuffer (s : State) : Except HostError FrameBuffer :=
  if s.romLoaded then .ok s.ppu.frameBuffer else .error .noRomLoaded

/-- The pixel (x, y) of a frame buffer (R536). -/
def framePixel (b : FrameBuffer) (x y : Nat) : BitVec 32 := b.read (y * 256 + x)

/-- The audio ring replaced. -/
def setRing (ring : List F64) (s : State) : State := { s with apu := { s.apu with audio := { s.apu.audio with ring := ring } } }

/-- R561 `read_audio(out)`, |out| = len: the samples written to `out` (the count returned is their number) and the System after. -/
def readAudio (len : Nat) (s : State) : Except HostError (List F64 × State) :=
  if s.romLoaded then
    let r := readAudioRing len s.apu.audio.ring
    .ok (r.1, setRing r.2 s)
  else .error .noRomLoaded

/-- R710 `set_audio_sample_rate(rate)`: the accumulator is kept; legal before `load_rom`. -/
def setAudioSampleRate (rate : Nat) (s : State) : HostResult :=
  if rate = 0 then .error .sampleRateNotPositive
  else .ok { s with apu := { s.apu with audio := { s.apu.audio with sampleRate := rate } } }

/-- R572: the buttons of a controller. -/
inductive Button
  | a
  | b
  | select
  | start
  | up
  | down
  | left
  | right
deriving DecidableEq, Repr

/-- R47, R572: A is bit 7, Right is bit 0. -/
def buttonBit : Button → Nat
  | .a => 7
  | .b => 6
  | .select => 5
  | .start => 4
  | .up => 3
  | .down => 2
  | .left => 1
  | .right => 0

/-- R572: the two controllers. -/
inductive Port
  | one
  | two
deriving DecidableEq, Repr

/-- R572 `controller(p).set_button(b, down)`. -/
def setButton (p : Port) (btn : Button) (down : Bool) (s : State) : HostResult :=
  whenLoaded s <| .ok <|
    match p with
    | .one => { s with pads := { s.pads with buttons1 := putBit s.pads.buttons1 (buttonBit btn) down } }
    | .two => { s with pads := { s.pads with buttons2 := putBit s.pads.buttons2 (buttonBit btn) down } }

/-- R713: a save-state blob: a version and the whole System, or nothing that can be read (assumption 18, DESIGN CHOICE, safe). -/
structure SaveBlob where
  version : Nat
  image : Option State
deriving DecidableEq, Repr

/-- R713: "current version = 1". -/
def saveVersion : Nat := 1

/-- R713 `save_state()`. -/
def saveState (s : State) : Except HostError SaveBlob :=
  if s.romLoaded then .ok { version := saveVersion, image := some s } else .error .noRomLoaded

/-- R711, R713 `load_state(bytes)`. The version is checked before the image is read (assumption 18, DESIGN CHOICE, unsafe: the rules give the two
errors no order). "The whole System": the ROM image, variant, sample rate and parameters of the blob replace the
System's as well (assumption 18, DESIGN CHOICE, unsafe: R55 calls them configuration). -/
def loadState (blob : SaveBlob) (s : State) : HostResult :=
  whenLoaded s <|
    if blob.version ≠ saveVersion then .error (.saveStateVersionMismatch blob.version saveVersion)
    else
      match blob.image with
      | some t => .ok t
      | none => .error .saveStateCorrupt

/-- `clock()` called k times. -/
def clockTimes : Nat → State → Result
  | 0, s => .next s
  | k + 1, s =>
    match clock s with
    | .next t => clockTimes k t
    | .fault r => .fault r
    | .refused r => .refused r

/-- R722 `cpu.step()`: from a boundary, `clock()` until one instruction has executed and `cycles_remaining` is 0 again. -/
def cpuStep (s : State) : Result :=
  match clock s with
  | .next t => clockTimes t.cpu.cyclesRemaining t
  | .fault r => .fault r
  | .refused r => .refused r

/-- R742: the start of the nestest run on a System that holds the nestest ROM (assumption 20, DESIGN CHOICE, safe). -/
def nestestStart (s : State) : State :=
  { s with cpu := { s.cpu with pc := 0xC000, a := 0, x := 0, y := 0, totalCycles := 7, cyclesRemaining := 0, brkUnmasked := false } }

/-- R742: what a line of the trace records. -/
structure TraceLine where
  pc : Word
  a : Byte
  x : Byte
  y : Byte
  p : Byte
  sp : Byte
  totalCycles : Nat
deriving DecidableEq, Repr

/-- R742: the record of a boundary, P "compared with U=1 and B=0". -/
def traceLine (s : State) : TraceLine :=
  { pc := s.cpu.pc, a := s.cpu.a, x := s.cpu.x, y := s.cpu.y, p := pulledStatus s.cpu.p, sp := s.cpu.sp
    totalCycles := s.cpu.totalCycles }

end Sys2Proof.Machine
end

