-- ==== Sys2Proof/Safety.lean ====
section
/-! DEFINITION. Sys2Proof/Safety.lean: the invariant of a safe run, part by part, and the words the statements are written in: what an instruction's next state holds and what it leaves alone. -/

namespace Sys2Proof.Machine

/-- R36, R37: P.U is 1 and P.B is 0. -/
def StatusOk (s : State) : Prop := s.cpu.flag .u = true ∧ s.cpu.flag .b = false

/-- A memory in canonical form that lists no index at or above its size. -/
def Memory.Ok (m : Memory) (size : Nat) : Prop := m.wf ∧ m.below size

/-- R8, R46, R593, R594: the memories on the CPU's side and in the cartridge keep their form and size; CHR and PRG are not empty. -/
def CartridgeOk (s : State) : Prop :=
  s.cart.prgRam.Ok 8192 ∧ s.cart.prgRom.Ok s.cart.prgSize ∧ s.cart.chr.Ok s.cart.chrSize
    ∧ 0 < s.cart.prgSize ∧ 0 < s.cart.chrSize

/-- R8, R99 to R101: the PPU's memories keep their form and size. -/
def PpuMemoryOk (s : State) : Prop :=
  s.ppu.nametable.Ok 4096 ∧ s.ppu.palette.Ok 32 ∧ s.ppu.oam.Ok 256 ∧ s.ppu.secondaryOam.Ok 32

/-- R536: the frame buffer is canonical, 256×240 pixels. -/
def FrameBufferOk (s : State) : Prop := s.ppu.frameBuffer.wf ∧ ∀ c ∈ s.ppu.frameBuffer, c.1 < 61440

/-- Every memory of the machine is in canonical form and within its size. -/
def MemoryOk (s : State) : Prop := s.ram.Ok 2048 ∧ CartridgeOk s ∧ PpuMemoryOk s ∧ FrameBufferOk s

/-- R52, R513: `scanline` in [-1, 260], `cycle` in [0, 340]. -/
def GridOk (s : State) : Prop := -1 ≤ s.ppu.scanline ∧ s.ppu.scanline ≤ 260 ∧ s.ppu.cycle ≤ 340

/-- R52, R530: eight sprite units, at most eight in use. -/
def SpritesOk (s : State) : Prop := s.ppu.sprites.length = 8 ∧ s.ppu.spriteCount ≤ 8

/-- R40, R44: `cycles_remaining` is at most 8 and `dmc_stall` at most 4. -/
def PacingOk (s : State) : Prop := s.cpu.cyclesRemaining ≤ 8 ∧ s.dmcStall ≤ 4

/-- R555, R556: the frame counter stays below its period; R549: 1 to 8 bits are left in the DMC's shift register. -/
def SequencerOk (s : State) : Prop :=
  s.apu.frame.frameCycle < framePeriod s.config.frameWrap s.apu.frame.fiveStep
    ∧ 1 ≤ s.apu.dmc.bitsRemaining ∧ s.apu.dmc.bitsRemaining ≤ 8

/-- R541 to R547: length counters and envelopes stay in their ranges. -/
def ChannelsOk (s : State) : Prop :=
  s.apu.pulse1.length ≤ 254 ∧ s.apu.pulse2.length ≤ 254 ∧ s.apu.triangle.length ≤ 254 ∧ s.apu.noise.length ≤ 254
    ∧ s.apu.pulse1.envelope.decay ≤ 15 ∧ s.apu.pulse2.envelope.decay ≤ 15 ∧ s.apu.noise.envelope.decay ≤ 15

/-- The invariant every step keeps. -/
structure State.Inv (s : State) : Prop where
  status : StatusOk s
  memory : MemoryOk s
  grid : GridOk s
  sprites : SpritesOk s
  pacing : PacingOk s
  sequencer : SequencerOk s
  channels : ChannelsOk s

/-- An instruction answers a next state that meets `post`. -/
def Completes (i : Instr) (s : State) (post : State → Prop) : Prop := ∃ t, exec i s = .next t ∧ post t

/-- Every part of the System but the CPU's registers is that of `s`: all memory and every device among it. -/
def SameOutsideCpu (s t : State) : Prop :=
  t.ram = s.ram ∧ t.ppu = s.ppu ∧ t.apu = s.apu ∧ t.cart = s.cart ∧ t.pads = s.pads ∧ t.dma = s.dma
    ∧ t.dmcStall = s.dmcStall ∧ t.masterCount = s.masterCount ∧ t.cpuTickCount = s.cpuTickCount
    ∧ t.romLoaded = s.romLoaded ∧ t.config = s.config

/-- R401: an instruction of n cycles has been counted: `total_cycles` grew by n, `cycles_remaining` is n - 1 (n under TICK_MODEL N_PLUS_1). -/
def Paced (n : Nat) (s t : State) : Prop :=
  t.cpu.totalCycles = s.cpu.totalCycles + n
    ∧ (s.config.tickModel = .n → t.cpu.cyclesRemaining = n - 1)
    ∧ (s.config.tickModel = .nPlus1 → t.cpu.cyclesRemaining = n)

/-- A, X, Y, SP and PC have these values. -/
def RegsAre (t : State) (a x y sp : Byte) (pc : Word) : Prop :=
  t.cpu.a = a ∧ t.cpu.x = x ∧ t.cpu.y = y ∧ t.cpu.sp = sp ∧ t.cpu.pc = pc

/-- No flag but those listed differs from `s`, apart from U, which is 1 after every instruction (R401). -/
def OnlyFlags (fs : List Flag) (s t : State) : Prop :=
  t.cpu.flag .u = true ∧ ∀ f, f ≠ .u → f ∉ fs → t.cpu.flag f = s.cpu.flag f

/-- R16: N and Z are those of the byte v. -/
def NZOf (v : Byte) (t : State) : Prop := t.cpu.flag .n = v.msb ∧ t.cpu.flag .z = decide (v = 0)

/-- R80, R92: what a CPU read of address a returns (its side effect aside). -/
def readsAs (s : State) (a : Word) : Byte := (busRead a s).1

/-- R92: an internal RAM address. -/
def InRam (a : Word) : Prop := a.toNat < 0x2000

/-- R92: a PRG RAM address. -/
def InPrgRam (a : Word) : Prop := 0x6000 ≤ a.toNat ∧ a.toNat < 0x8000

/-- R90: the addresses whose read has a side effect: $2002 and $2007 with their mirrors, $4015, $4016, $4017. -/
def ReadHasSideEffect (a : Word) : Prop :=
  (0x2000 ≤ a.toNat ∧ a.toNat < 0x4000 ∧ (a.toNat % 8 = 2 ∨ a.toNat % 8 = 7))
    ∨ a.toNat = 0x4015 ∨ a.toNat = 0x4016 ∨ a.toNat = 0x4017

/-- R93: two addresses that name the same internal RAM byte. -/
def SameRamByte (a b : Word) : Prop := InRam a ∧ InRam b ∧ a.toNat % 0x800 = b.toNat % 0x800

/-- Nothing outside the CPU's registers changed: every byte reads as before. -/
def NothingStored (s t : State) : Prop := SameOutsideCpu s t ∧ ∀ a, readsAs t a = readsAs s a

/-- R90: outside the CPU, t differs from s in no more than the side effects of reads: PPU status, write latch, $2007 buffer and v,
the frame IRQ flag, the controllers' shift registers. -/
def ReadEffectsOnly (s t : State) : Prop :=
  t.ram = s.ram ∧ t.cart = s.cart ∧ t.dma = s.dma ∧ t.dmcStall = s.dmcStall ∧ t.masterCount = s.masterCount
    ∧ t.cpuTickCount = s.cpuTickCount ∧ t.romLoaded = s.romLoaded ∧ t.config = s.config
    ∧ t.ppu = { s.ppu with status := t.ppu.status, w := t.ppu.w, dataBuffer := t.ppu.dataBuffer, v := t.ppu.v }
    ∧ t.apu = { s.apu with frame := { s.apu.frame with irq := t.apu.frame.irq } }
    ∧ t.pads = { s.pads with shift1 := t.pads.shift1, shift2 := t.pads.shift2 }

/-- R90: no byte stored, no more than side effects of reads: every byte whose read has no side effect reads as before. -/
def OnlyRead (s t : State) : Prop := ReadEffectsOnly s t ∧ ∀ a, ¬ ReadHasSideEffect a → readsAs t a = readsAs s a

/-- The operand is not at an address whose read has a side effect. -/
def OperandQuiet (o : ReadOperand) (s : State) : Prop :=
  match o with
  | .imm _ => True
  | .mem m => ¬ ReadHasSideEffect (effective m s).ea

/-- What an instruction that reads its operand o and stores nothing leaves outside the CPU: the System as the operand's read left it,
and nothing changed at all for a quiet operand. -/
def OperandFrame (o : ReadOperand) (s t : State) : Prop :=
  SameOutsideCpu (readOperand o s).state t ∧ OnlyRead s t ∧ (OperandQuiet o s → NothingStored s t)

/-- Exactly these bytes were stored, in internal RAM: each reads back, every address that names none of them reads as before, and
nothing outside the CPU and the RAM changed. -/
def RamStored (stored : List (Word × Byte)) (s t : State) : Prop :=
  (∀ c ∈ stored, readsAs t c.1 = c.2)
    ∧ (∀ a, (∀ c ∈ stored, ¬ SameRamByte a c.1) → readsAs t a = readsAs s a)
    ∧ SameOutsideCpu { s with ram := t.ram } t

/-- The byte v was stored at address a of the bus, the System before the write being u (s, or s after a read at a): in RAM and in
PRG RAM just that byte changed; anywhere else no byte of RAM or PRG RAM changed, and NROM ignores a store to its ROM or to an
address where nothing is. -/
def ByteStored (a : Word) (v : Byte) (u s t : State) : Prop :=
  SameOutsideCpu (busWrite a v u) t
    ∧ (InRam a → RamStored [(a, v)] s t)
    ∧ (InPrgRam a → readsAs t a = v ∧ ∀ b, b ≠ a → readsAs t b = readsAs s b)
    ∧ (¬ InRam a → ¬ InPrgRam a → ∀ b, InRam b ∨ InPrgRam b → readsAs t b = readsAs s b)
    ∧ (s.cart.variant = .nrom → 0x4018 ≤ a.toNat → ¬ InPrgRam a → NothingStored s t)

/-- R270, R279: what a branch on the condition does: PC is the target or the next instruction; 2 cycles, one more when taken, one
more again when the target is on another page. -/
def BranchResult (cond : Bool) (off : Byte) (s t : State) : Prop :=
  let target := s.cpu.pc + off.signExtend 16
  RegsAre t s.cpu.a s.cpu.x s.cpu.y s.cpu.sp (if cond then target else s.cpu.pc)
    ∧ OnlyFlags [] s t ∧ NothingStored s t
    ∧ Paced (if cond then (if s.cpu.pc.toNat / 256 = target.toNat / 256 then 3 else 4) else 2) s t

/-- R251: what a read-modify-write of the memory operand m to the new byte v does, flags apart. -/
def ModifiedTo (m : MemMode) (v : Byte) (s t : State) : Prop :=
  RegsAre t s.cpu.a s.cpu.x s.cpu.y s.cpu.sp s.cpu.pc ∧ NZOf v t ∧ Paced (rmwCycles m) s t
    ∧ ByteStored (effective m s).ea v (busRead (effective m s).ea s).2 s t

/-- R143: what a shift of the accumulator to the new byte v does, C apart. -/
def ShiftedTo (v : Byte) (s t : State) : Prop :=
  RegsAre t v s.cpu.x s.cpu.y s.cpu.sp s.cpu.pc ∧ NZOf v t ∧ OnlyFlags [.n, .z, .c] s t ∧ Paced 2 s t ∧ NothingStored s t

/-- R145 to R154: a mode's effective address and whether its page differs from the base's, the index X or Y and the pointer bytes
taken from s. A pointer's bytes are read at p and (p + 1) mod 256. -/
def AddressIs (s : State) (ea : Word) (crossed : Bool) : MemMode → Prop
  | .zp b => ea = b.setWidth 16 ∧ crossed = false
  | .zpx b => ea = (b + s.cpu.x).setWidth 16 ∧ crossed = false
  | .zpy b => ea = (b + s.cpu.y).setWidth 16 ∧ crossed = false
  | .abs w => ea = w ∧ crossed = false
  | .absx w => ea = w + s.cpu.x.setWidth 16 ∧ crossed = decide (w.toNat / 256 ≠ ea.toNat / 256)
  | .absy w => ea = w + s.cpu.y.setWidth 16 ∧ crossed = decide (w.toNat / 256 ≠ ea.toNat / 256)
  | .izx b =>
    ea = mkWord (readsAs s ((b + s.cpu.x + 1).setWidth 16)) (readsAs s ((b + s.cpu.x).setWidth 16)) ∧ crossed = false
  | .izy b =>
    let base := mkWord (readsAs s ((b + 1).setWidth 16)) (readsAs s (b.setWidth 16))
    ea = base + s.cpu.y.setWidth 16 ∧ crossed = decide (base.toNat / 256 ≠ ea.toNat / 256)

/-- R410 to R412: an interrupt taken from s: PC high, PC low and the status byte pushed, I set, nothing else of P changed, PC from
the vector, A, X and Y kept, `total_cycles` up by n. -/
def Entered (vector : Word) (status : Byte) (pc : Word) (n : Nat) (s t : State) : Prop :=
  RegsAre t s.cpu.a s.cpu.x s.cpu.y (s.cpu.sp - 3) (mkWord (readsAs s (vector + 1)) (readsAs s vector))
    ∧ t.cpu.flag .i = true ∧ (∀ f, f ≠ .i → f ≠ .u → t.cpu.flag f = s.cpu.flag f)
    ∧ RamStored [(stackAddr s.cpu.sp, hiByte pc), (stackAddr (s.cpu.sp - 1), loByte pc), (stackAddr (s.cpu.sp - 2), status)] s t
    ∧ t.cpu.totalCycles = s.cpu.totalCycles + n

/-- R405: an IRQ is masked: I is 1, unless the parameter `brkIrq` has an IRQ entered at the boundary after a BRK that was executed with
I = 0 (assumption 28, DESIGN CHOICE, safe: R283 and R409 beside R405 and R406). -/
def IrqMasked (s : State) : Prop := s.cpu.flag .i = true ∧ ¬ (s.config.brkIrq = .entered ∧ s.cpu.brkUnmasked = true)

/-- R99: which nametable an address from $2000 to $3EFF is in. -/
def nametableOf (m : Mirroring) (a : Nat) : Nat :=
  match m with
  | .horizontal => a / 0x800 % 2
  | .vertical => a / 0x400 % 2
  | .singleScreenLow | .singleScreenHigh => 0
  | .fourScreen => a / 0x400 % 4

/-- R99, R100, R516: two PPU addresses from $2000 on that name the same byte: nametable addresses under the mirroring mode, palette
addresses with their mirrors every 32 bytes and the aliases of the backdrop entries. -/
def SamePpuByte (m : Mirroring) (a b : PpuAddr) : Prop :=
  (0x2000 ≤ a.toNat ∧ a.toNat < 0x3F00 ∧ 0x2000 ≤ b.toNat ∧ b.toNat < 0x3F00 ∧ a.toNat % 0x400 = b.toNat % 0x400
      ∧ nametableOf m a.toNat = nametableOf m b.toNat)
    ∨ (0x3F00 ≤ a.toNat ∧ 0x3F00 ≤ b.toNat ∧ (a.toNat % 32 = b.toNat % 32 ∨ (a.toNat % 4 = 0 ∧ a.toNat % 16 = b.toNat % 16)))

/-- R545: the length after a fourth-register write of d: LENGTH_TABLE at bits 7:3, when the channel is enabled. -/
def lengthLoaded (enabled : Bool) (d : Byte) (old : Nat) : Nat := if enabled then lengthTable.getD (d.toNat / 8) 0 else old

/-- R541: the pulse channel p after a write of d to its register k is r k: the fields of the register, and no other. -/
def PulseWritten (d : Byte) (enabled : Bool) (p : Pulse) (r : Nat → Pulse) : Prop :=
  ((r 0).duty.toNat = d.toNat / 64 ∧ (r 0).halt = d.getLsbD 5 ∧ (r 0).envelope.constant = d.getLsbD 4
      ∧ (r 0).envelope.volume.toNat = d.toNat % 16
      ∧ r 0 = { p with
          duty := (r 0).duty, halt := (r 0).halt
          envelope := { p.envelope with constant := (r 0).envelope.constant, volume := (r 0).envelope.volume } })
    ∧ ((r 1).sweep.enable = d.getLsbD 7 ∧ (r 1).sweep.period.toNat = d.toNat / 16 % 8 ∧ (r 1).sweep.negate = d.getLsbD 3
      ∧ (r 1).sweep.shift.toNat = d.toNat % 8 ∧ (r 1).sweep.reload = true ∧ (r 1).sweep.divider = p.sweep.divider
      ∧ r 1 = { p with sweep := (r 1).sweep })
    ∧ ((r 2).timerPeriod.toNat = p.timerPeriod.toNat / 256 * 256 + d.toNat ∧ r 2 = { p with timerPeriod := (r 2).timerPeriod })
    ∧ ((r 3).timerPeriod.toNat = d.toNat % 8 * 256 + p.timerPeriod.toNat % 256
      ∧ r 3 = { p with
          timerPeriod := (r 3).timerPeriod, length := lengthLoaded enabled d p.length, seqPos := 0
          envelope := { p.envelope with start := true } })

/-- R546: the triangle t after a write of d to $4008 + k is r k. -/
def TriangleWritten (d : Byte) (enabled : Bool) (t : Triangle) (r : Nat → Triangle) : Prop :=
  ((r 0).linearReload.toNat = d.toNat % 128 ∧ r 0 = { t with control := d.getLsbD 7, linearReload := (r 0).linearReload })
    ∧ r 1 = t
    ∧ ((r 2).timerPeriod.toNat = t.timerPeriod.toNat / 256 * 256 + d.toNat ∧ r 2 = { t with timerPeriod := (r 2).timerPeriod })
    ∧ ((r 3).timerPeriod.toNat = d.toNat % 8 * 256 + t.timerPeriod.toNat % 256
      ∧ r 3 = { t with
          timerPeriod := (r 3).timerPeriod, length := lengthLoaded enabled d t.length, linearReloadFlag := true })

/-- R547: the noise channel n after a write of d to $400C + k is r k. -/
def NoiseWritten (d : Byte) (enabled : Bool) (n : Noise) (r : Nat → Noise) : Prop :=
  ((r 0).envelope.constant = d.getLsbD 4 ∧ (r 0).envelope.volume.toNat = d.toNat % 16
      ∧ r 0 = { n with
          halt := d.getLsbD 5
          envelope := { n.envelope with constant := (r 0).envelope.constant, volume := (r 0).envelope.volume } })
    ∧ r 1 = n
    ∧ ((r 2).periodIndex.toNat = d.toNat % 16 ∧ r 2 = { n with mode := d.getLsbD 7, periodIndex := (r 2).periodIndex })
    ∧ r 3 = { n with length := lengthLoaded enabled d n.length, envelope := { n.envelope with start := true } }

/-- R548: the DMC c after a write of d to $4010 + k is r k. -/
def DmcWritten (d : Byte) (c : Dmc) (r : Nat → Dmc) : Prop :=
  ((r 0).rateIndex.toNat = d.toNat % 16
      ∧ r 0 = { c with
          irqEnable := d.getLsbD 7, loop := d.getLsbD 6, rateIndex := (r 0).rateIndex, irq := c.irq && d.getLsbD 7 })
    ∧ ((r 1).level.toNat = d.toNat % 128 ∧ r 1 = { c with level := (r 1).level })
    ∧ ((r 2).sampleAddr.toNat = 0xC000 + d.toNat * 64 ∧ r 2 = { c with sampleAddr := (r 2).sampleAddr })
    ∧ r 3 = { c with sampleLen := d.toNat * 16 + 1 }

/-- R549, R557: u is s after the DMC's reader fetched its next byte through the bus into the shift register: the CPU stalled by
`DMC_STALL` slots up to 4, the address moved on, from $FFFF to $8000, and at the sample's end the sample started again or, with no
loop, `dmc_irq` set if enabled. -/
def DmcFetched (s u : State) : Prop :=
  let d := s.apu.dmc
  let e := u.apu.dmc
  let b := busRead d.currentAddr s
  e.shift = b.1 ∧ e.silence = false ∧ e.bitsRemaining = 8
    ∧ e.currentAddr =
        (if d.bytesRemaining = 1 ∧ d.loop = true then d.sampleAddr
          else if d.currentAddr = 0xFFFF then 0x8000 else d.currentAddr + 1)
    ∧ e.bytesRemaining = (if d.bytesRemaining = 1 ∧ d.loop = true then d.sampleLen else d.bytesRemaining - 1)
    ∧ e.irq = (d.irq || (d.irqEnable && !d.loop && decide (d.bytesRemaining = 1)))
    ∧ e = { d with
        timer := e.timer, level := e.level, shift := e.shift, bitsRemaining := e.bitsRemaining, silence := e.silence
        currentAddr := e.currentAddr, bytesRemaining := e.bytesRemaining, irq := e.irq }
    ∧ u = { b.2 with dmcStall := min 4 (s.dmcStall + s.config.dmcStall), apu := { b.2.apu with dmc := e } }

/-- R580: n DMA slots in a row, the first of them slot number c. -/
def dmaRun : Nat → Nat → State → State
  | 0, _, s => s
  | n + 1, c, s => dmaRun n (c + 1) (dmaStep c s)

end Sys2Proof.Machine
end

