-- ==== Sys2Proof/Certificates/Slice0/Obligations.lean ====
section
/-! DEFINITION. Sys2Proof/Certificates/Slice0/Obligations.lean: the statements for the provers, in the words of Sys2Proof/Safety.lean. A statement about an instruction takes s with PC past the instruction (R34, R141). -/

open Sys2Proof Sys2Proof.Machine

/-! ## Encoding -/

/-- R162: the words of the syntax table's examples, and one word of every family. -/
def Obligations.SampleWordsDecode : Prop :=
  decode [0xA9, 0x10] = .instr (.lda (.imm 0x10)) []
    ∧ decode [0xB6, 0x10] = .instr (.ldx (.mem (.zpy 0x10))) []
    ∧ decode [0x8D, 0x34, 0x12] = .instr (.sta (.abs 0x1234)) []
    ∧ decode [0xB1, 0x20] = .instr (.lda (.mem (.izy 0x20))) []
    ∧ decode [0xA1, 0x20] = .instr (.lda (.mem (.izx 0x20))) []
    ∧ decode [0x7D, 0xFF, 0x02] = .instr (.adc (.mem (.absx 0x02FF))) []
    ∧ decode [0x0A] = .instr (.asl .acc) []
    ∧ decode [0xD0, 0xFE] = .instr (.bne 0xFE) []
    ∧ decode [0x6C, 0xFF, 0x02] = .instr (.jmp (.ind 0x02FF)) []
    ∧ decode [0x20, 0x00, 0xC1] = .instr (.jsr 0xC100) []
    ∧ decode [0x18] = .instr .clc []
    ∧ decode [0x00] = .instr .brk []
    ∧ decode [0x02, 0x55] = .instr (.nopIllegal 0x02) [0x55]

/-- R159 (D9): the 105 opcodes outside the table, and no others, decode to the one-byte no-op. -/
def Obligations.IllegalOpcodesAreOneByteNops : Prop :=
  illegalOpcodes.length = 105 ∧ illegalOpcodes.Nodup
    ∧ ∀ op b1 b2 : Byte,
        (op ∈ illegalOpcodes → decodeByte op b1 b2 = .nopIllegal op ∧ opcodeLength op = 1)
          ∧ (op ∉ illegalOpcodes → ∀ x, decodeByte op b1 b2 ≠ .nopIllegal x)

/-- R140, R158, R161: decoding the bytes of any well-formed instruction gives it back, with every operand, and leaves what follows. -/
def Obligations.DecodeOfEncodeIsTheInstruction : Prop :=
  ∀ (i : Instr) (rest : List Byte), i.wf = true → decode (encode i ++ rest) = .instr i rest

/-- R140, R161: every byte is an opcode, its instruction is well formed, its length is the opcode's, and encoding gives its bytes back. -/
def Obligations.EveryOpcodeByteDecodes : Prop :=
  ∀ op b1 b2 : Byte,
    (decodeByte op b1 b2).wf = true ∧ (decodeByte op b1 b2).length = opcodeLength op
      ∧ encode (decodeByte op b1 b2) = [op, b1, b2].take (opcodeLength op)

/-! ## Memory and operands -/

/-- R93: an internal RAM byte is read back at each of its mirrors, and a store to it changes no other address. -/
def Obligations.RamMirrorsEveryTwoKilobytes : Prop :=
  ∀ (s : State) (a : Word) (v : Byte), MemoryOk s → InRam a →
    (∀ b, SameRamByte b a → readsAs (busWrite a v s) b = v)
      ∧ ∀ b, ¬ SameRamByte b a → readsAs (busWrite a v s) b = readsAs s b

/-- R95 (the spec's decision D13): what reads as $00 whatever is stored there: the write-only registers, the addresses where nothing
is, and a cartridge address the mapper does not map. -/
def Obligations.UnmappedAddressesReadZero : Prop :=
  ∀ (s : State) (a : Word),
    ((0x4000 ≤ a.toNat ∧ a.toNat ≤ 0x4014) ∨ (0x4018 ≤ a.toNat ∧ a.toNat ≤ 0x401F)
        ∨ (0x2000 ≤ a.toNat ∧ a.toNat < 0x4000 ∧ (a.toNat % 8 = 0 ∨ a.toNat % 8 = 1 ∨ a.toNat % 8 = 3 ∨ a.toNat % 8 = 5 ∨ a.toNat % 8 = 6))
      → busRead a s = (0, s))
    ∧ (0x4020 ≤ a.toNat → ¬ InPrgRam a → cpuMapRead s.cart a = none → busRead a s = (0, s))
    ∧ (0x4018 ≤ a.toNat ∧ a.toNat ≤ 0x401F → ∀ v, busWrite a v s = s)

/-- R592: NROM: the PRG ROM at $8000-$FFFF, 16 KB of it twice; a store there is dropped. -/
def Obligations.NromMapsItsRomAndDropsStores : Prop :=
  ∀ (s : State) (a : Word), s.cart.variant = .nrom → 0x8000 ≤ a.toNat →
    (s.cart.prgSize = 0x8000 → readsAs s a = s.cart.prgRom.read (a.toNat - 0x8000))
      ∧ (s.cart.prgSize = 0x4000 → readsAs s a = s.cart.prgRom.read ((a.toNat - 0x8000) % 0x4000)
          ∧ (a.toNat < 0xC000 → readsAs s (a + 0x4000) = readsAs s a))
      ∧ ∀ v, busWrite a v s = s

/-- R145 to R151, R153, R154: the effective address of every mode; finding it changes nothing. -/
def Obligations.EffectiveAddressOfEveryMode : Prop :=
  ∀ (m : MemMode) (s : State), (effective m s).state = s ∧ AddressIs s (effective m s).ea (effective m s).crossed m

/-- R144, R155, R156, R158, R251: an operand's value and the cycles of reading it, and of a read-modify-write. -/
def Obligations.OperandValuesAndPageCrossingCycles : Prop :=
  ∀ (s : State),
    (∀ b, (readOperand (.imm b) s).value = b ∧ (readOperand (.imm b) s).cycles = 2 ∧ (readOperand (.imm b) s).state = s)
      ∧ ∀ m, (readOperand (.mem m) s).value = readsAs s (effective m s).ea
          ∧ (readOperand (.mem m) s).cycles =
              (match m with
                | .zp _ => 3
                | .zpx _ | .zpy _ | .abs _ => 4
                | .absx _ | .absy _ => if (effective m s).crossed then 5 else 4
                | .izx _ => 6
                | .izy _ => if (effective m s).crossed then 6 else 5)
          ∧ (match m with
              | .zp _ => rmwCycles m = 5
              | .zpx _ | .abs _ => rmwCycles m = 6
              | .absx _ => rmwCycles m = 7
              | _ => True)

/-! ## Loads, stores, transfers, stack -/

/-- R200 to R202. -/
def Obligations.LoadsCompleteWithNZ : Prop :=
  ∀ (o : ReadOperand) (s : State),
    let v := readOperand o s
    Completes (.lda o) s (fun t =>
        RegsAre t v.value s.cpu.x s.cpu.y s.cpu.sp s.cpu.pc ∧ NZOf v.value t ∧ OnlyFlags [.n, .z] s t ∧ Paced v.cycles s t
          ∧ OperandFrame o s t)
      ∧ Completes (.ldx o) s (fun t =>
          RegsAre t s.cpu.a v.value s.cpu.y s.cpu.sp s.cpu.pc ∧ NZOf v.value t ∧ OnlyFlags [.n, .z] s t ∧ Paced v.cycles s t
            ∧ OperandFrame o s t)
      ∧ Completes (.ldy o) s (fun t =>
          RegsAre t s.cpu.a s.cpu.x v.value s.cpu.sp s.cpu.pc ∧ NZOf v.value t ∧ OnlyFlags [.n, .z] s t ∧ Paced v.cycles s t
            ∧ OperandFrame o s t)

/-- R203 to R205: one byte stored at the effective address, no flag changed, the page-crossing cycle always counted. -/
def Obligations.StoresCompleteWithOneByte : Prop :=
  ∀ (m : MemMode) (s : State), MemoryOk s →
    let ea := (effective m s).ea
    let n := match m with
      | .zp _ => 3
      | .zpx _ | .zpy _ | .abs _ => 4
      | .absx _ | .absy _ => 5
      | .izx _ | .izy _ => 6
    let kept := fun t : State => RegsAre t s.cpu.a s.cpu.x s.cpu.y s.cpu.sp s.cpu.pc ∧ OnlyFlags [] s t ∧ Paced n s t
    Completes (.sta m) s (fun t => kept t ∧ ByteStored ea s.cpu.a s s t)
      ∧ Completes (.stx m) s (fun t => kept t ∧ ByteStored ea s.cpu.x s s t)
      ∧ Completes (.sty m) s (fun t => kept t ∧ ByteStored ea s.cpu.y s s t)

/-- R206 to R211: the transfers; TXS alone writes no flag. -/
def Obligations.TransfersComplete : Prop :=
  ∀ s : State,
    let r := s.cpu
    let rest := fun (v : Byte) (t : State) => NZOf v t ∧ OnlyFlags [.n, .z] s t ∧ Paced 2 s t ∧ NothingStored s t
    Completes .tax s (fun t => RegsAre t r.a r.a r.y r.sp r.pc ∧ rest r.a t)
      ∧ Completes .tay s (fun t => RegsAre t r.a r.x r.a r.sp r.pc ∧ rest r.a t)
      ∧ Completes .txa s (fun t => RegsAre t r.x r.x r.y r.sp r.pc ∧ rest r.x t)
      ∧ Completes .tya s (fun t => RegsAre t r.y r.x r.y r.sp r.pc ∧ rest r.y t)
      ∧ Completes .tsx s (fun t => RegsAre t r.a r.sp r.y r.sp r.pc ∧ rest r.sp t)
      ∧ Completes .txs s (fun t => RegsAre t r.a r.x r.y r.x r.pc ∧ OnlyFlags [] s t ∧ Paced 2 s t ∧ NothingStored s t)

/-- R86, R212, R214 (D39): a push stores its byte at $0100 + SP and moves SP down, wrapping; PHP's byte has B = U = 1. -/
def Obligations.PushesComplete : Prop :=
  ∀ s : State, MemoryOk s →
    let kept := fun t : State =>
      RegsAre t s.cpu.a s.cpu.x s.cpu.y (s.cpu.sp - 1) s.cpu.pc ∧ OnlyFlags [] s t ∧ Paced 3 s t
    Completes .pha s (fun t => kept t ∧ RamStored [(0x0100 ||| s.cpu.sp.setWidth 16, s.cpu.a)] s t)
      ∧ Completes .php s (fun t => kept t ∧ RamStored [(0x0100 ||| s.cpu.sp.setWidth 16, s.cpu.p ||| 0x30)] s t)

/-- R87, R213, R215 (D39): a pull moves SP up, wrapping, and reads at $0100 + SP; PLP takes N, V, D, I, Z, C and leaves B = 0, U = 1. -/
def Obligations.PullsComplete : Prop :=
  ∀ s : State,
    let v := readsAs s (0x0100 ||| (s.cpu.sp + 1).setWidth 16)
    Completes .pla s (fun t =>
        RegsAre t v s.cpu.x s.cpu.y (s.cpu.sp + 1) s.cpu.pc ∧ NZOf v t ∧ OnlyFlags [.n, .z] s t ∧ Paced 4 s t ∧ NothingStored s t)
      ∧ Completes .plp s (fun t =>
          RegsAre t s.cpu.a s.cpu.x s.cpu.y (s.cpu.sp + 1) s.cpu.pc ∧ t.cpu.p = ((v &&& ~~~0x10) ||| 0x20) ∧ Paced 4 s t
            ∧ NothingStored s t)

/-! ## Arithmetic and logic -/

/-- R230, R232, R252: A + M + C in binary, whatever D is; C the carry out, V the signed overflow. -/
def Obligations.AdcCompletesWithCarryAndOverflow : Prop :=
  ∀ (o : ReadOperand) (s : State),
    let v := readOperand o s
    let c := bitNat (s.cpu.flag .c)
    let sum := s.cpu.a.toNat + v.value.toNat + c
    let signed := s.cpu.a.toInt + v.value.toInt + c
    Completes (.adc o) s (fun t =>
      RegsAre t (BitVec.ofNat 8 sum) s.cpu.x s.cpu.y s.cpu.sp s.cpu.pc ∧ NZOf (BitVec.ofNat 8 sum) t
        ∧ t.cpu.flag .c = decide (255 < sum) ∧ t.cpu.flag .v = decide (signed < -128 ∨ 127 < signed)
        ∧ OnlyFlags [.n, .v, .z, .c] s t ∧ Paced v.cycles s t ∧ OperandFrame o s t)

/-- R231, R232, R252: A - M - (1 - C) in binary, whatever D is; C = 1 when nothing was borrowed, V the signed overflow. -/
def Obligations.SbcCompletesWithBorrowAndOverflow : Prop :=
  ∀ (o : ReadOperand) (s : State),
    let v := readOperand o s
    let b := 1 - bitNat (s.cpu.flag .c)
    let diff := s.cpu.a - v.value - BitVec.ofNat 8 b
    let signed := s.cpu.a.toInt - v.value.toInt - b
    Completes (.sbc o) s (fun t =>
      RegsAre t diff s.cpu.x s.cpu.y s.cpu.sp s.cpu.pc ∧ NZOf diff t
        ∧ t.cpu.flag .c = decide (v.value.toNat + b ≤ s.cpu.a.toNat) ∧ t.cpu.flag .v = decide (signed < -128 ∨ 127 < signed)
        ∧ OnlyFlags [.n, .v, .z, .c] s t ∧ Paced v.cycles s t ∧ OperandFrame o s t)

/-- R233 to R235. -/
def Obligations.LogicInstructionsComplete : Prop :=
  ∀ (o : ReadOperand) (s : State),
    let v := readOperand o s
    let done := fun (r : Byte) (t : State) =>
      RegsAre t r s.cpu.x s.cpu.y s.cpu.sp s.cpu.pc ∧ NZOf r t ∧ OnlyFlags [.n, .z] s t ∧ Paced v.cycles s t ∧ OperandFrame o s t
    Completes (.and o) s (done (s.cpu.a &&& v.value))
      ∧ Completes (.ora o) s (done (s.cpu.a ||| v.value))
      ∧ Completes (.eor o) s (done (s.cpu.a ^^^ v.value))

/-- R236: N and V from the byte read, Z from A and the byte; A kept. -/
def Obligations.BitCompletes : Prop :=
  ∀ (m : MemMode) (s : State),
    let v := readOperand (.mem m) s
    Completes (.bit m) s (fun t =>
      RegsAre t s.cpu.a s.cpu.x s.cpu.y s.cpu.sp s.cpu.pc ∧ t.cpu.flag .z = decide (s.cpu.a &&& v.value = 0)
        ∧ t.cpu.flag .n = v.value.getLsbD 7 ∧ t.cpu.flag .v = v.value.getLsbD 6
        ∧ OnlyFlags [.n, .v, .z] s t ∧ Paced v.cycles s t ∧ OperandFrame (.mem m) s t)

/-- R237 to R240: C for register >= operand, Z for equal, N from the difference; no register written. -/
def Obligations.ComparesComplete : Prop :=
  ∀ (o : ReadOperand) (s : State),
    let v := readOperand o s
    let done := fun (reg : Byte) (t : State) =>
      RegsAre t s.cpu.a s.cpu.x s.cpu.y s.cpu.sp s.cpu.pc ∧ t.cpu.flag .c = decide (v.value.toNat ≤ reg.toNat)
        ∧ t.cpu.flag .z = decide (reg = v.value) ∧ t.cpu.flag .n = (reg - v.value).msb
        ∧ OnlyFlags [.n, .z, .c] s t ∧ Paced v.cycles s t ∧ OperandFrame o s t
    Completes (.cmp o) s (done s.cpu.a) ∧ Completes (.cpx o) s (done s.cpu.x) ∧ Completes (.cpy o) s (done s.cpu.y)

/-- R241, R242, R251 (D8): one read and one write of the location; N and Z alone change. -/
def Obligations.IncDecComplete : Prop :=
  ∀ (m : MemMode) (s : State), MemoryOk s →
    let old := readsAs s (effective m s).ea
    Completes (.inc m) s (fun t => ModifiedTo m (old + 1) s t ∧ OnlyFlags [.n, .z] s t)
      ∧ Completes (.dec m) s (fun t => ModifiedTo m (old - 1) s t ∧ OnlyFlags [.n, .z] s t)

/-- R243 to R246: X and Y up and down by one, wrapping. -/
def Obligations.RegisterIncDecComplete : Prop :=
  ∀ s : State,
    let r := s.cpu
    let rest := fun (v : Byte) (t : State) => NZOf v t ∧ OnlyFlags [.n, .z] s t ∧ Paced 2 s t ∧ NothingStored s t
    Completes .inx s (fun t => RegsAre t r.a (r.x + 1) r.y r.sp r.pc ∧ rest (r.x + 1) t)
      ∧ Completes .iny s (fun t => RegsAre t r.a r.x (r.y + 1) r.sp r.pc ∧ rest (r.y + 1) t)
      ∧ Completes .dex s (fun t => RegsAre t r.a (r.x - 1) r.y r.sp r.pc ∧ rest (r.x - 1) t)
      ∧ Completes .dey s (fun t => RegsAre t r.a r.x (r.y - 1) r.sp r.pc ∧ rest (r.y - 1) t)

/-- R143, R247 to R250: the shifts of the accumulator; C is the bit shifted out, the old C enters a rotate. -/
def Obligations.AccumulatorShiftsComplete : Prop :=
  ∀ s : State,
    let a := s.cpu.a
    let c := s.cpu.flag .c
    Completes (.asl .acc) s (fun t => ShiftedTo (a <<< 1) s t ∧ t.cpu.flag .c = a.getLsbD 7)
      ∧ Completes (.lsr .acc) s (fun t => ShiftedTo (a >>> 1) s t ∧ t.cpu.flag .c = a.getLsbD 0)
      ∧ Completes (.rol .acc) s (fun t => ShiftedTo ((a <<< 1) ||| (if c then 1 else 0)) s t ∧ t.cpu.flag .c = a.getLsbD 7)
      ∧ Completes (.ror .acc) s (fun t => ShiftedTo ((a >>> 1) ||| (if c then 0x80 else 0)) s t ∧ t.cpu.flag .c = a.getLsbD 0)

/-- R247 to R251 (D8): the shifts of a memory operand. -/
def Obligations.MemoryShiftsComplete : Prop :=
  ∀ (m : MemMode) (s : State), MemoryOk s →
    let old := readsAs s (effective m s).ea
    let c := s.cpu.flag .c
    let done := fun (v : Byte) (out : Bool) (t : State) => ModifiedTo m v s t ∧ t.cpu.flag .c = out ∧ OnlyFlags [.n, .z, .c] s t
    Completes (.asl (.mem m)) s (done (old <<< 1) (old.getLsbD 7))
      ∧ Completes (.lsr (.mem m)) s (done (old >>> 1) (old.getLsbD 0))
      ∧ Completes (.rol (.mem m)) s (done ((old <<< 1) ||| (if c then 1 else 0)) (old.getLsbD 7))
      ∧ Completes (.ror (.mem m)) s (done ((old >>> 1) ||| (if c then 0x80 else 0)) (old.getLsbD 0))

/-! ## Control flow -/

/-- R148, R270 to R279 (D10): the eight branches; that the fourth cycle compares the target's page with the next instruction's is
the spec's decision D10. -/
def Obligations.BranchesComplete : Prop :=
  ∀ (off : Byte) (s : State),
    Completes (.bcc off) s (BranchResult (!s.cpu.flag .c) off s)
      ∧ Completes (.bcs off) s (BranchResult (s.cpu.flag .c) off s)
      ∧ Completes (.beq off) s (BranchResult (s.cpu.flag .z) off s)
      ∧ Completes (.bmi off) s (BranchResult (s.cpu.flag .n) off s)
      ∧ Completes (.bne off) s (BranchResult (!s.cpu.flag .z) off s)
      ∧ Completes (.bpl off) s (BranchResult (!s.cpu.flag .n) off s)
      ∧ Completes (.bvc off) s (BranchResult (!s.cpu.flag .v) off s)
      ∧ Completes (.bvs off) s (BranchResult (s.cpu.flag .v) off s)

/-- R85, R149, R152, R280: JMP; the indirect pointer's high byte comes from the pointer's own page. -/
def Obligations.JumpsComplete : Prop :=
  ∀ (w : Word) (s : State),
    let w1 := mkWord (hiByte w) (loByte w + 1)
    Completes (.jmp (.abs w)) s (fun t =>
        RegsAre t s.cpu.a s.cpu.x s.cpu.y s.cpu.sp w ∧ OnlyFlags [] s t ∧ Paced 3 s t ∧ NothingStored s t)
      ∧ Completes (.jmp (.ind w)) s (fun t =>
          RegsAre t s.cpu.a s.cpu.x s.cpu.y s.cpu.sp (mkWord (readsAs (busRead w s).2 w1) (readsAs s w))
            ∧ OnlyFlags [] s t ∧ Paced 5 s t ∧ SameOutsideCpu (busRead w1 (busRead w s).2).2 t ∧ OnlyRead s t
            ∧ (¬ ReadHasSideEffect w → ¬ ReadHasSideEffect w1 → NothingStored s t))

/-- R281 (D40): JSR pushes the address of its own last byte, high byte first. -/
def Obligations.JsrCompletes : Prop :=
  ∀ (target : Word) (s : State), MemoryOk s →
    Completes (.jsr target) s (fun t =>
      RegsAre t s.cpu.a s.cpu.x s.cpu.y (s.cpu.sp - 2) target ∧ OnlyFlags [] s t ∧ Paced 6 s t
        ∧ RamStored [(stackAddr s.cpu.sp, hiByte (s.cpu.pc - 1)), (stackAddr (s.cpu.sp - 1), loByte (s.cpu.pc - 1))] s t)

/-- R282: RTS pulls PC low, PC high, and goes one further. -/
def Obligations.RtsCompletes : Prop :=
  ∀ s : State,
    Completes .rts s (fun t =>
      RegsAre t s.cpu.a s.cpu.x s.cpu.y (s.cpu.sp + 2)
          (mkWord (readsAs s (stackAddr (s.cpu.sp + 2))) (readsAs s (stackAddr (s.cpu.sp + 1))) + 1)
        ∧ OnlyFlags [] s t ∧ Paced 6 s t ∧ NothingStored s t)

/-- R283, R408, R410, R412 (D12): BRK takes the software interrupt whatever I is: PC0 + 2 and P with B = U = 1 pushed, I set, 7 cycles. It
alone writes the model's own field `brkUnmasked`, from I before it (assumption 28). -/
def Obligations.BrkTakesTheSoftwareInterrupt : Prop :=
  ∀ s : State,
    (MemoryOk s →
        Completes .brk s (fun t => Entered 0xFFFE (s.cpu.p ||| 0x30) (s.cpu.pc + 1) 7 s t ∧ t.cpu.flag .u = true ∧ Paced 7 s t
          ∧ t.cpu.brkUnmasked = !s.cpu.flag .i))
      ∧ ∀ (i : Instr) (t : State), i ≠ .brk → exec i s = .next t → t.cpu.brkUnmasked = s.cpu.brkUnmasked

/-- R284, R413: RTI pulls P with B = 0 and U = 1, then PC low, PC high. -/
def Obligations.RtiCompletes : Prop :=
  ∀ s : State,
    Completes .rti s (fun t =>
      RegsAre t s.cpu.a s.cpu.x s.cpu.y (s.cpu.sp + 3)
          (mkWord (readsAs s (stackAddr (s.cpu.sp + 3))) (readsAs s (stackAddr (s.cpu.sp + 2))))
        ∧ t.cpu.p = ((readsAs s (stackAddr (s.cpu.sp + 1)) &&& ~~~0x10) ||| 0x20) ∧ Paced 6 s t ∧ NothingStored s t)

/-- R281, R282, R413: RTI after BRK resumes at BRK's address + 2, RTS after JSR after the JSR, with SP and P as they were, wherever SP was. -/
def Obligations.ReturnsUndoTheirEntries : Prop :=
  ∀ s : State, MemoryOk s → StatusOk s →
    (∃ t u, exec .brk s = .next t ∧ exec .rti { t with cpu := { t.cpu with pc := t.cpu.pc + 1 } } = .next u
      ∧ RegsAre u s.cpu.a s.cpu.x s.cpu.y s.cpu.sp (s.cpu.pc + 1) ∧ u.cpu.p = s.cpu.p)
      ∧ ∀ target, ∃ t u, exec (.jsr target) s = .next t ∧ exec .rts { t with cpu := { t.cpu with pc := t.cpu.pc + 1 } } = .next u
          ∧ RegsAre u s.cpu.a s.cpu.x s.cpu.y s.cpu.sp s.cpu.pc ∧ u.cpu.p = s.cpu.p

/-! ## Flags and no-operation -/

/-- R300 to R306: each writes its flag and nothing else. -/
def Obligations.FlagInstructionsComplete : Prop :=
  ∀ s : State,
    let done := fun (f : Flag) (x : Bool) (t : State) =>
      RegsAre t s.cpu.a s.cpu.x s.cpu.y s.cpu.sp s.cpu.pc ∧ t.cpu.flag f = x ∧ OnlyFlags [f] s t ∧ Paced 2 s t ∧ NothingStored s t
    Completes .clc s (done .c false) ∧ Completes .sec s (done .c true) ∧ Completes .cli s (done .i false)
      ∧ Completes .sei s (done .i true) ∧ Completes .cld s (done .d false) ∧ Completes .sed s (done .d true)
      ∧ Completes .clv s (done .v false)

/-- R307, R308 (D9): NOP and every illegal opcode: two cycles and nothing else. -/
def Obligations.NopAndIllegalOpcodesComplete : Prop :=
  ∀ (op : Byte) (s : State),
    let idle := fun t : State =>
      RegsAre t s.cpu.a s.cpu.x s.cpu.y s.cpu.sp s.cpu.pc ∧ OnlyFlags [] s t ∧ Paced 2 s t ∧ NothingStored s t
    Completes .nop s idle ∧ Completes (.nopIllegal op) s idle

/-- R38, R252: two runs of ADC, SBC, CMP, INC or a shift that differ in D alone differ in D alone afterwards. -/
def Obligations.DecimalFlagNeverChangesAResult : Prop :=
  ∀ (i : Instr) (s : State),
    (match i with
      | .adc _ | .sbc _ | .cmp _ | .cpx _ | .cpy _ | .inc _ | .dec _ | .asl _ | .lsr _ | .rol _ | .ror _ => True
      | _ => False) →
    ∀ t, exec i s = .next t →
      exec i { s with cpu := s.cpu.setFlag .d true } = .next { t with cpu := t.cpu.setFlag .d true }
        ∧ exec i { s with cpu := s.cpu.setFlag .d false } = .next { t with cpu := t.cpu.setFlag .d false }

/-! ## Interrupts -/

/-- R405, R410 to R412 (D3, D40): NMI is entered whatever I is: the pushed status has B = 0, U = 1; 8 cycles. That it clears the model's own
field `brkUnmasked` is the model's choice (assumption 28). -/
def Obligations.NmiEntersWhateverTheMask : Prop :=
  ∀ s : State, MemoryOk s →
    Entered 0xFFFA ((s.cpu.p &&& ~~~0x30) ||| 0x20) s.cpu.pc 8 s (nmi s)
      ∧ (nmi s).cpu.cyclesRemaining = 8 ∧ (nmi s).cpu.flag .u = s.cpu.flag .u ∧ (nmi s).cpu.brkUnmasked = false

/-- R283, R405, R409 to R412 (D3, D40): IRQ is entered unmasked alone, in 7 cycles, and leaves the System untouched while masked: by I = 1,
and, in the reading of R283 and R409, not at the boundary after a BRK executed with I = 0. That the parameter `brkIrq` has both readings,
and that I before BRK gates the second, is the model's choice (assumption 28). -/
def Obligations.IrqEntersOnlyUnmasked : Prop :=
  ∀ s : State, MemoryOk s →
    let afterBrk := s.config.brkIrq = .entered ∧ s.cpu.brkUnmasked = true
    (s.cpu.flag .i = false ∨ afterBrk →
        Entered 0xFFFE ((s.cpu.p &&& ~~~0x30) ||| 0x20) s.cpu.pc 7 s (irq s) ∧ (irq s).cpu.cyclesRemaining = 7
          ∧ (irq s).cpu.flag .u = s.cpu.flag .u ∧ (irq s).cpu.brkUnmasked = false)
      ∧ (s.cpu.flag .i = true → ¬ afterBrk → irq s = s)

/-- R404, R406, R409, R420 (D4, D5): no interrupt is taken inside an instruction, a DMA or a stall; at a boundary a pending NMI is taken first,
its flag cleared, and no IRQ source is touched. -/
def Obligations.PollTakesNmiFirstAndOnlyAtABoundary : Prop :=
  ∀ s : State,
    (0 < s.cpu.cyclesRemaining ∨ s.dma.transferring = true ∨ 0 < s.dmcStall → interruptPoll s = s)
      ∧ (s.cpu.cyclesRemaining = 0 → s.dma.transferring = false → s.dmcStall = 0 → s.ppu.nmiPending = true →
          (interruptPoll s).cpu.pc = mkWord (readsAs s 0xFFFB) (readsAs s 0xFFFA) ∧ (interruptPoll s).cpu.cyclesRemaining = 8
            ∧ (interruptPoll s).ppu = { s.ppu with nmiPending := false }
            ∧ (interruptPoll s).apu = s.apu ∧ (interruptPoll s).cart = s.cart)

/-- R405, R406, R424, R425 (D4, D6; assumptions 6 and 28): at a boundary without an NMI an asserted IRQ line is entered when it is not masked and
leaves the CPU alone when it is; the APU's flags stay; the mapper's bit, when it is read, is cleared under `drain` and kept under `hold`. -/
def Obligations.PollTakesAnUnmaskedIrq : Prop :=
  ∀ s : State, s.cpu.cyclesRemaining = 0 → s.dma.transferring = false → s.dmcStall = 0 → s.ppu.nmiPending = false →
    let t := interruptPoll s
    let line := s.apu.frame.irq || s.apu.dmc.irq || s.cart.mapper.irqPending
    (line = true → ¬ IrqMasked s →
        t.cpu.pc = mkWord (readsAs t 0xFFFF) (readsAs t 0xFFFE) ∧ t.cpu.flag .i = true ∧ t.cpu.cyclesRemaining = 7)
      ∧ (line = false ∨ IrqMasked s → t.cpu = s.cpu ∧ t.ram = s.ram)
      ∧ t.apu = s.apu ∧ t.ppu = s.ppu
      ∧ (s.config.mapperIrqRetention = .hold → t.cart = s.cart)
      ∧ (s.config.mapperIrqRetention = .drain → s.apu.frame.irq = false → s.apu.dmc.irq = false →
          t.cart = { s.cart with mapper := { s.cart.mapper with irqPending := false } })

/-! ## The step -/

/-- R141, R401, R430, R431 (D8, D15): at a boundary, in a master cycle with a CPU slot, a step runs the PPU dot, then the instruction the bytes
at PC decode to, with PC past it, U set and the model's own `brkUnmasked` cleared (assumption 28), then the rest of the slot. -/
def Obligations.StepRunsTheDecodedInstruction : Prop :=
  ∀ s : State, s.romLoaded = true → s.masterCount % 3 = 0 → s.cpu.cyclesRemaining = 0 → s.dma.transferring = false →
    s.dmcStall = 0 →
    let d := dotPhase s
    let after := fun r : Result => mapNext endTick (mapNext endSlot r)
    step s = after (exec (fetch (beginInstruction d)).1 (fetch (beginInstruction d)).2)
      ∧ ∀ (i : Instr) (rest : List Byte), (∀ k, k < i.length → ¬ ReadHasSideEffect (s.cpu.pc + BitVec.ofNat 16 k)) →
          decode [readsAs d s.cpu.pc, readsAs d (s.cpu.pc + 1), readsAs d (s.cpu.pc + 2)] = .instr i rest →
          step s = after (exec i
            { d with
              cpu := { s.cpu with
                pc := s.cpu.pc + BitVec.ofNat 16 i.length, p := setFlag .u true s.cpu.p, brkUnmasked := false } })

/-- R400, R710, R711 (D55): a loaded System always steps, one master cycle at a time, and never faults; an empty one is refused by name. -/
def Obligations.EveryLoadedStepAnswers : Prop :=
  ∀ s : State,
    (s.romLoaded = true → ∃ t, step s = .next t ∧ t.masterCount = s.masterCount + 1 ∧ t.romLoaded = true)
      ∧ (s.romLoaded = false → step s = .refused .noRomLoaded)

/-- R430 (D15): the CPU, the APU, DMA and the poll have every third master cycle; the others move the PPU, and the mapper's counter, alone. -/
def Obligations.CpuHasEveryThirdMasterCycle : Prop :=
  ∀ s : State, s.romLoaded = true →
    (s.masterCount % 3 ≠ 0 →
        ∃ p m, step s = .next
          { s with ppu := p, cart := { s.cart with mapper := m }, masterCount := s.masterCount + 1 })
      ∧ (s.masterCount % 3 = 0 → ∃ t, step s = .next t ∧ t.cpuTickCount = s.cpuTickCount + 1)

/-- R401, R722 (D1, D54): an instruction executes whole in its first `clock()`; the calls that follow only count, so one of n cycles takes n
calls, and `total_cycles` grows by n. -/
def Obligations.InstructionOccupiesItsCycles : Prop :=
  ∀ s t : State, s.cpu.cyclesRemaining = 0 → clock s = .next t →
    cpuStep s = .next { t with cpu := { t.cpu with cyclesRemaining := 0 } }
      ∧ (s.config.tickModel = .n → t.cpu.totalCycles = s.cpu.totalCycles + (t.cpu.cyclesRemaining + 1) ∧ 1 ≤ t.cpu.cyclesRemaining)

/-- R431, R557, R580 (D16, D17): while DMA or a DMC stall has the slot the CPU does not move. -/
def Obligations.DmaAndStallHoldTheCpu : Prop :=
  ∀ s : State,
    (s.dma.transferring = true →
        slotWork s = .next (dmaStep s.cpuTickCount s) ∧ (dmaStep s.cpuTickCount s).cpu = s.cpu
          ∧ (dmaStep s.cpuTickCount s).ram = s.ram ∧ (dmaStep s.cpuTickCount s).cart = s.cart)
      ∧ (s.dma.transferring = false → 0 < s.dmcStall → slotWork s = .next { s with dmcStall := s.dmcStall - 1 })

/-- R580 (D16, D52): a write of v to $4014 moves the 256 bytes of page v into OAM in 513 slots, 514 when the first of them has an even number;
the bytes are those of the page wherever reading it has no side effect, and nothing else changes. -/
def Obligations.OamDmaMovesAPageInItsSlots : Prop :=
  ∀ (s : State) (v : Byte) (c : Nat), MemoryOk s →
    let n := if c % 2 = 1 then 513 else 514
    let d := busWrite 0x4014 v s
    (∀ k, k < n → (dmaRun k c d).dma.transferring = true)
      ∧ (dmaRun n c d).dma.transferring = false ∧ (dmaRun n c d).dma.dummy = true
      ∧ ((∀ i : Byte, ¬ ReadHasSideEffect (mkWord v i)) →
          (∀ i : Byte, (dmaRun n c d).ppu.oam.read i.toNat = readsAs s (mkWord v i))
            ∧ ∃ oam dma, dmaRun n c d = { s with ppu := { s.ppu with oam := oam }, dma := dma })

/-! ## Reset, invariants, frames -/

/-- R700, R701, R427 (D2, D11, D33, D44): what `reset()` leaves, and what it does not touch. The model's choice: that A, X
and Y are the same parameters at every reset (assumption 4), that `Ppu.reset` has sp_attr,
`sprite0_next` and `sprite0_line` 0 (assumption 29), and its own field `brkUnmasked` (assumption 28). -/
def Obligations.ResetLeavesItsTable : Prop :=
  ∀ s : State,
    let t := systemReset s
    let c := mapperReset s.cart
    t.cpu.sp = 0xFD ∧ t.cpu.p = 0x24 ∧ t.cpu.cyclesRemaining = 8 ∧ t.cpu.totalCycles = s.config.resetTotalCycles
      ∧ t.cpu.brkUnmasked = false
      ∧ t.cpu.a = s.config.resetA ∧ t.cpu.x = s.config.resetX ∧ t.cpu.y = s.config.resetY
      ∧ t.cpu.pc = mkWord (cartRead c 0xFFFD) (cartRead c 0xFFFC)
      ∧ (∀ a, InRam a → readsAs t a = 0) ∧ t.ppu = Ppu.reset ∧ t.apu = Apu.reset s.apu.audio.sampleRate
      ∧ t.pads = { s.pads with shift1 := 0, shift2 := 0 } ∧ t.dma = { page := 0, addr := 0, data := 0, transferring := false, dummy := true }
      ∧ t.dmcStall = 0 ∧ t.masterCount = 0 ∧ t.cpuTickCount = 0
      ∧ t.cart = { s.cart with mapper := c.mapper } ∧ t.cart.mapper.irqPending = false
      ∧ t.ppu.nmiPending = false ∧ t.apu.frame.irq = false ∧ t.apu.dmc.irq = false

/-- The reset state meets the invariant of Sys2Proof/Safety.lean (its cartridge is the model's, assumption 3). -/
def Obligations.ResetMeetsTheInvariant : Prop := State.reset.Inv

/-- R36, R37, R40, R44, R52, R99 to R101, R513, R545, R555 (D17, D36, D37): the invariant is kept by every step from every state that has it: U = 1
and B = 0, every memory canonical and in its size, the PPU's position on its grid, at most eight sprites, at most 8 cycles and 4
stall slots left, the frame counter below its wrap, length and decay in range. -/
def Obligations.StepKeepsTheInvariant : Prop := ∀ s t : State, s.Inv → step s = .next t → t.Inv

/-- R9, R91, R700, R746: no step changes PRG ROM, CHR ROM, the cartridge's sizes, the parameters, the buttons or the sample rate, and
`total_cycles` never falls. -/
def Obligations.StepNeverChangesRomOrParameters : Prop :=
  ∀ s t : State, step s = .next t →
    t.cart.prgRom = s.cart.prgRom ∧ t.cart.prgSize = s.cart.prgSize ∧ t.cart.variant = s.cart.variant
      ∧ t.cart.header = s.cart.header ∧ t.cart.chrSize = s.cart.chrSize ∧ t.cart.chrRamFrom = s.cart.chrRamFrom
      ∧ (∀ k, k < s.cart.chrRamFrom → t.cart.chr.read k = s.cart.chr.read k)
      ∧ t.config = s.config ∧ t.pads.buttons1 = s.pads.buttons1 ∧ t.pads.buttons2 = s.pads.buttons2
      ∧ t.apu.audio.sampleRate = s.apu.audio.sampleRate ∧ s.cpu.totalCycles ≤ t.cpu.totalCycles

/-- R514, R720, R743 (D18; assumption 19: the bound in `runFrame`): `run_frame()` of a loaded System always returns, with dot (-1, 1) just done, within one frame of dots, and
VBlank clear. -/
def Obligations.RunFrameReturnsAtThePreRenderLine : Prop :=
  ∀ s : State, s.romLoaded = true → GridOk s →
    ∃ t, runFrame s = .next t ∧ t.ppu.frameComplete = true ∧ t.ppu.scanline = -1 ∧ t.ppu.cycle = 2
      ∧ t.ppu.status.getLsbD 7 = false ∧ s.masterCount < t.masterCount ∧ t.masterCount ≤ s.masterCount + 262 * 341

/-! ## APU and controllers -/

/-- R421, R554 to R556 (D37; assumption 7: where the count goes back to 0): in 4-step mode the frame IRQ is raised at the 29829th tick and
not before, if not inhibited; in 5-step mode never; the count is 0 again after a period. A write to $4017 sets the mode and the
inhibit bit, which clears the IRQ, restarts the count and in 5-step mode clocks both frames at once. -/
def Obligations.FrameCounterRaisesItsIrqOnTheLastStep : Prop :=
  (∀ (w : FrameWrap) (a : Apu), a.frame.frameCycle = 0 → a.frame.irq = false →
    let run := fun n => (Nat.repeat (frameTick w) n a).frame
    (a.frame.fiveStep = false → ∀ n, n < 29829 → (run n).irq = false)
      ∧ (a.frame.fiveStep = false → (run 29829).irq = !a.frame.inhibit)
      ∧ (a.frame.fiveStep = true → ∀ n, (run n).irq = false)
      ∧ (run (match w with
          | .atStep => if a.frame.fiveStep then 37281 else 29829
          | .afterStep => if a.frame.fiveStep then 37282 else 29830)).frameCycle = 0)
    ∧ ∀ (s : State) (d : Byte),
        let t := busWrite 0x4017 d s
        t.apu.frame = { fiveStep := d.getLsbD 7, inhibit := d.getLsbD 6, frameCycle := 0, irq := s.apu.frame.irq && !d.getLsbD 6 }
          ∧ t.apu = { (if d.getLsbD 7 then halfFrame (quarterFrame s.apu) else s.apu) with frame := t.apu.frame }
          ∧ t = { s with apu := t.apu }

/-- R421, R422, R552, R553: $4015: the byte read, and the frame IRQ it clears; what a write enables, silences and clears. -/
def Obligations.ApuStatusReadsAndWrites : Prop :=
  ∀ (s : State) (d : Byte),
    let r := busRead 0x4015 s
    let t := busWrite 0x4015 d s
    r.1.getLsbD 0 = decide (0 < s.apu.pulse1.length) ∧ r.1.getLsbD 1 = decide (0 < s.apu.pulse2.length)
      ∧ r.1.getLsbD 2 = decide (0 < s.apu.triangle.length) ∧ r.1.getLsbD 3 = decide (0 < s.apu.noise.length)
      ∧ r.1.getLsbD 4 = decide (0 < s.apu.dmc.bytesRemaining) ∧ r.1.getLsbD 5 = false
      ∧ r.1.getLsbD 6 = s.apu.frame.irq ∧ r.1.getLsbD 7 = s.apu.dmc.irq
      ∧ r.2 = { s with apu := { s.apu with frame := { s.apu.frame with irq := false } } }
      ∧ (∀ k, k < 5 → t.apu.enable.getLsbD k = d.getLsbD k)
      ∧ t.apu.pulse1.length = (if d.getLsbD 0 then s.apu.pulse1.length else 0)
      ∧ t.apu.pulse2.length = (if d.getLsbD 1 then s.apu.pulse2.length else 0)
      ∧ t.apu.triangle.length = (if d.getLsbD 2 then s.apu.triangle.length else 0)
      ∧ t.apu.noise.length = (if d.getLsbD 3 then s.apu.noise.length else 0)
      ∧ t.apu.dmc.bytesRemaining =
          (if d.getLsbD 4 then (if s.apu.dmc.bytesRemaining = 0 then s.apu.dmc.sampleLen else s.apu.dmc.bytesRemaining) else 0)
      ∧ t.apu.dmc.currentAddr = (if d.getLsbD 4 ∧ s.apu.dmc.bytesRemaining = 0 then s.apu.dmc.sampleAddr else s.apu.dmc.currentAddr)
      ∧ t.apu.dmc.irq = false ∧ t.apu.frame = s.apu.frame

/-- R570, R571 (D24): after a strobe the k-th read of a port returns button bit 7 - k, and 0 from the ninth on. -/
def Obligations.ControllerReadsItsButtonsInOrder : Prop :=
  ∀ (s : State) (d : Byte), d.getLsbD 0 = true →
    ∀ k,
      (busRead 0x4016 (Nat.repeat (fun u => (busRead 0x4016 u).2) k (busWrite 0x4016 d s))).1
          = (if k < 8 ∧ s.pads.buttons1.getLsbD (7 - k) then 1 else 0)
        ∧ (busRead 0x4017 (Nat.repeat (fun u => (busRead 0x4017 u).2) k (busWrite 0x4016 d s))).1
          = (if k < 8 ∧ s.pads.buttons2.getLsbD (7 - k) then 1 else 0)

/-! ## PPU -/

/-- R420, R503, R506 (D22): $2002 returns the three status bits and clears VBlank and the write latch, never a pending NMI; a write to $2000
raises NMI when it enables it while VBlank is set, and copies its low bits into t. -/
def Obligations.PpuStatusAndControl : Prop :=
  ∀ (s : State) (d : Byte),
    let r := busRead 0x2002 s
    let t := busWrite 0x2000 d s
    (∀ k, r.1.getLsbD k = if k < 5 then s.ppu.dataBuffer.getLsbD k else s.ppu.status.getLsbD k)
      ∧ (∀ k, r.2.ppu.status.getLsbD k = (s.ppu.status.getLsbD k && decide (k ≠ 7)))
      ∧ r.2.ppu.w = false ∧ r.2.ppu.nmiPending = s.ppu.nmiPending ∧ r.2.ppu.dataBuffer = s.ppu.dataBuffer
      ∧ t.ppu.ctrl = d
      ∧ t.ppu.nmiPending = (s.ppu.nmiPending || (!s.ppu.ctrl.getLsbD 7 && d.getLsbD 7 && s.ppu.status.getLsbD 7))
      ∧ (∀ k, k < 15 → t.ppu.t.getLsbD k = if k = 10 then d.getLsbD 0 else if k = 11 then d.getLsbD 1 else s.ppu.t.getLsbD k)

/-- R509: two writes to $2006 load v, high byte first, its bit 14 cleared; two writes to $2005 load the scroll fields of t and fineX
and leave v. -/
def Obligations.ScrollAndAddressWrites : Prop :=
  ∀ (s : State) (x y : Byte), s.ppu.w = false →
    let a := busWrite 0x2006 y (busWrite 0x2006 x s)
    let b := busWrite 0x2005 y (busWrite 0x2005 x s)
    a.ppu.v.toNat = x.toNat % 64 * 256 + y.toNat ∧ a.ppu.t = a.ppu.v ∧ a.ppu.w = false
      ∧ b.ppu.v = s.ppu.v ∧ b.ppu.w = false ∧ b.ppu.fineX.toNat = x.toNat % 8
      ∧ b.ppu.t.toNat % 32 = x.toNat / 8 ∧ b.ppu.t.toNat / 32 % 32 = y.toNat / 8 ∧ b.ppu.t.toNat / 4096 = y.toNat % 8
      ∧ b.ppu.t.toNat / 1024 % 4 = s.ppu.t.toNat / 1024 % 4

/-- R98 to R100, R510, R511, R516 (D23, D30): $2007 reads below the palette are buffered, palette reads direct; a write is read back at its
address; v moves by 1 or 32 modulo $8000 either way. -/
def Obligations.PpuDataPort : Prop :=
  ∀ (s : State) (d : Byte), MemoryOk s →
    let a := s.ppu.v.toNat % 0x4000
    let r := busRead 0x2007 s
    let t := busWrite 0x2007 d s
    let next := (s.ppu.v.toNat + (if s.ppu.ctrl.getLsbD 2 then 32 else 1)) % 0x8000
    (a < 0x3F00 → r.1 = s.ppu.dataBuffer ∧ r.2.ppu.dataBuffer = ppuRead s.cart s.ppu (BitVec.ofNat 14 a))
      ∧ (0x3F00 ≤ a → r.1 = ppuRead s.cart s.ppu (BitVec.ofNat 14 a)
          ∧ r.2.ppu.dataBuffer = ppuRead s.cart s.ppu (BitVec.ofNat 14 (a - 0x1000)))
      ∧ r.2.ppu.v.toNat = next ∧ t.ppu.v.toNat = next
      ∧ (0x2000 ≤ a → ppuRead t.cart t.ppu (BitVec.ofNat 14 a) = d ∧ t.cart = s.cart)
      ∧ (a < 0x2000 → s.cart.variant = .nrom → s.cart.chrSize = 0x2000 →
          (s.cart.chrRamFrom = 0 → ppuRead t.cart t.ppu (BitVec.ofNat 14 a) = d)
            ∧ (s.cart.chrRamFrom = 0x2000 → t.cart = s.cart))

/-- R99, R100, R508, R516 (D23, D25, D28): the nametable and palette addresses that name one byte in each mirroring mode read alike, and
a write to $2007 changes what is read at those that name its byte and at no other; $2004 stores at and moves `oam_addr`. -/
def Obligations.NametablePaletteAndOamAddressing : Prop :=
  ∀ (s : State) (d : Byte), MemoryOk s →
    let v : PpuAddr := BitVec.ofNat 14 (s.ppu.v.toNat % 0x4000)
    let t := busWrite 0x2007 d s
    (∀ a b : PpuAddr, SamePpuByte s.cart.mirroring a b → ppuRead s.cart s.ppu a = ppuRead s.cart s.ppu b)
      ∧ (0x2000 ≤ v.toNat → ∀ a : PpuAddr,
          (SamePpuByte s.cart.mirroring v a → ppuRead t.cart t.ppu a = d)
            ∧ (¬ SamePpuByte s.cart.mirroring v a → ppuRead t.cart t.ppu a = ppuRead s.cart s.ppu a))
      ∧ (v.toNat < 0x2000 → ∀ a : PpuAddr,
          0x2000 ≤ a.toNat ∨ (s.cart.variant = .nrom ∧ s.cart.chrSize = 0x2000 ∧ a ≠ v) →
            ppuRead t.cart t.ppu a = ppuRead s.cart s.ppu a)
      ∧ readsAs s 0x2004 = s.ppu.oam.read s.ppu.oamAddr.toNat
      ∧ (busWrite 0x2004 d s).ppu.oam.read s.ppu.oamAddr.toNat = d
      ∧ (busWrite 0x2004 d s).ppu.oamAddr = s.ppu.oamAddr + 1
      ∧ (busWrite 0x2003 d s).ppu.oamAddr = d

/-- R513, R514 (D18, D20, D26): the dot moves along the grid of 341 by 262, (0, 0) skipped on an odd frame with rendering on; VBlank and its NMI start
at (241, 1); at (-1, 1) the status bits are cleared and the frame is complete. -/
def Obligations.DotsWalkTheFrame : Prop :=
  ∀ (c : Cartridge) (p : Ppu), -1 ≤ p.scanline → p.scanline ≤ 260 → p.cycle ≤ 340 →
    let q := ppuDot c p
    let skip := p.scanline = 0 ∧ p.cycle = 0 ∧ p.oddFrame = true ∧ renderingEnabled p = true
    (skip → q.scanline = 0 ∧ q.cycle = 2)
      ∧ (¬ skip → p.cycle < 340 → q.scanline = p.scanline ∧ q.cycle = p.cycle + 1)
      ∧ (p.cycle = 340 → q.cycle = 0 ∧ q.scanline = (if p.scanline = 260 then -1 else p.scanline + 1))
      ∧ q.oddFrame = (p.oddFrame ^^ decide (p.scanline = 260 ∧ p.cycle = 340))
      ∧ (p.scanline = 241 → p.cycle = 1 →
          q.status.getLsbD 7 = true ∧ q.nmiPending = (p.nmiPending || p.ctrl.getLsbD 7))
      ∧ (p.scanline = -1 → p.cycle = 1 →
          q.status.getLsbD 7 = false ∧ q.status.getLsbD 6 = false ∧ q.status.getLsbD 5 = false ∧ q.frameComplete = true)
      ∧ (¬ (p.scanline = 241 ∧ p.cycle = 1) → ¬ (p.scanline = -1 ∧ p.cycle = 1) →
          q.status.getLsbD 7 = p.status.getLsbD 7 ∧ q.nmiPending = p.nmiPending ∧ q.frameComplete = p.frameComplete)

/-- R530, R535 (D46): evaluation keeps the first eight sprites of the next line, their bytes in OAM order, and sets the overflow bit when
there is a ninth. -/
def Obligations.SpriteEvaluationTakesTheFirstEight : Prop :=
  ∀ p : Ppu,
    let inRange := fun e => decide (0 ≤ p.scanline - (p.oam.read (4 * e)).toNat
      ∧ p.scanline - (p.oam.read (4 * e)).toNat < (if p.ctrl.getLsbD 5 then 16 else 8))
    let found := (List.range 64).filter inRange
    let q := evaluateSprites p
    q.spriteCount = min found.length 8
      ∧ q.status.getLsbD 5 = (p.status.getLsbD 5 || decide (8 < found.length))
      ∧ q.sprite0Next = inRange 0
      ∧ ∀ i j, i < 8 → j < 4 → i < found.length → q.secondaryOam.read (4 * i + j) = p.oam.read (4 * found.getD i 0 + j)

/-! ## Mappers and the loader -/

/-- R423, R596 to R599: MMC3's counter reloads at zero or on request and pends at zero when enabled, and mapper 16's counts down each slot
and pends below zero, each in its own hook alone; no hook clears a pending IRQ; mapper 225 selects the mirroring by address bit 13;
the bank selects of mappers 2, 3, 7, 11 and 113; the index, `chr_high`, latch and appended RAM of mapper 253. The model's choice
(assumption 10), in no line: that a write loads at most one bank register of MMC3 and mapper 16, the size of UxROM's banks, the
data bits of UxROM's and CNROM's selects, the counters without a width, the hooks MMC3 and mapper 16 lack, that no hook clears the pending bit, that the latch goes by any
`chr_low`, where the appended RAM is. What the lines leave open is constants (assumption 9). -/
def Obligations.MapperCountersAndMirroring : Prop :=
  ∀ (c : Cartridge) (a : Word) (d : Byte),
    let w := cpuMapWrite c a d
    (c.variant = .mmc3 →
        let m := c.mapper
        let n := (mapperScanlineTick c).mapper
        n.irqCounter = (if m.irqCounter = 0 ∨ m.irqReload = true then (m.irqLatch : Int) else m.irqCounter - 1)
          ∧ n.irqReload = (m.irqReload && decide (m.irqCounter ≠ 0 ∧ m.irqReload = false))
          ∧ n.irqPending = (m.irqPending || (m.irqEnabled && decide (n.irqCounter = 0)))
          ∧ mapperCpuTick c = c)
      ∧ (c.variant = .bandaiFcg →
          (mapperCpuTick c).mapper.irqCounter = c.mapper.irqCounter - 1
            ∧ (mapperCpuTick c).mapper.irqPending = (c.mapper.irqPending || decide (c.mapper.irqCounter - 1 < 0))
            ∧ mapperScanlineTick c = c)
      ∧ (c.mapper.irqPending = true →
          (mapperScanlineTick c).mapper.irqPending = true ∧ (mapperCpuTick c).mapper.irqPending = true)
      ∧ (c.variant = .mmc3 ∨ c.variant = .bandaiFcg → ∀ k, k < 8 →
          w.mapper.banks.getD k 0 =
            match Config.mapperBankWrite c.variant c.mapper a d with
            | some (i, x) => if k = i.val then x else c.mapper.banks.getD k 0
            | none => c.mapper.banks.getD k 0)
      ∧ (c.variant = .multi52in1 → w.mirroring = if a.getLsbD 13 then .vertical else .horizontal)
      ∧ (c.variant = .uxrom → 0x8000 ≤ a.toNat →
          w.mapper.prg = d.toNat % 16
            ∧ cpuMapRead c a = some (if a.toNat < 0xC000 then c.mapper.prg * 16384 + (a.toNat - 0x8000)
                else c.prgSize - 16384 + (a.toNat - 0xC000)))
      ∧ (c.variant = .cnrom → a.toNat < 0x8000 → w.mapper.chr = c.mapper.chr)
      ∧ (c.variant = .cnrom → 0x8000 ≤ a.toNat → w.mapper.chr = d.toNat % 2 ^ Config.mapperChrBits .cnrom)
      ∧ (c.variant = .axrom →
          (0x8000 ≤ a.toNat → cpuMapRead c a = some (c.mapper.prg * 32768 + (a.toNat - 0x8000)))
            ∧ (w.mirroring = c.mirroring ∨ w.mirroring = .singleScreenLow ∨ w.mirroring = .singleScreenHigh))
      ∧ (c.variant = .colorDreams →
          w.mapper.prg = (if Config.mapperRegisterAt .colorDreams a then d.toNat % 16 else c.mapper.prg)
            ∧ w.mapper.chr = (if Config.mapperRegisterAt .colorDreams a then d.toNat / 16 else c.mapper.chr))
      ∧ (c.variant = .nina → a.toNat < 0x4100 ∨ 0x6000 ≤ a.toNat → w.mapper.prg = c.mapper.prg ∧ w.mapper.chr = c.mapper.chr)
      ∧ (c.variant = .nina → 0x4100 ≤ a.toNat → a.toNat < 0x6000 →
          w.mapper.prg = Config.mapperPrgSelect .nina d ∧ w.mapper.chr = Config.mapperChrSelect .nina d)
      ∧ (c.variant = .waixingVrc4 →
          let x := (a &&& 8) ||| (a >>> 8)
          let i := (if Config.waixingReadingA then (x >>> 5) &&& 7 else ((x >>> 3) + 2) &&& 7).toNat
          let low := w.mapper.banks.getD i 0
          let reached := Config.waixingChrAt a
          low = (if reached then Config.waixingChrLow (c.mapper.banks.getD i 0) a d else c.mapper.banks.getD i 0)
            ∧ w.mapper.vlock = (if reached = true ∧ low = 0xC8 then false else if reached = true ∧ low = 0x88 then true else c.mapper.vlock)
            ∧ w.mapper.chrHigh.getD i 0 = (if reached && Config.waixingHighAt a then d.toNat / 16 else c.mapper.chrHigh.getD i 0)
            ∧ (∀ k, k < 8 → k ≠ i → w.mapper.banks.getD k 0 = c.mapper.banks.getD k 0
                ∧ w.mapper.chrHigh.getD k 0 = c.mapper.chrHigh.getD k 0)
            ∧ ∀ p : PpuAddr, p.toNat < 0x2000 →
                (c.mapper.vlock = false ∧ (c.mapper.banks.getD (p.toNat / 0x400) 0 = 4 ∨ c.mapper.banks.getD (p.toNat / 0x400) 0 = 5) →
                  ∃ k, k < 8192 ∧ ppuMapRead c p = some (c.chrSize - 8192 + k))
                ∧ (c.mapper.vlock = true → ppuMapRead c p = some (Config.waixingBank (c.mapper.banks.getD (p.toNat / 0x400) 0)
                    (c.mapper.chrHigh.getD (p.toNat / 0x400) 0) * 1024 + p.toNat % 1024)))

/-- R600 to R604, R711, R712 (D33, D49, D50; assumption 27: which error a file that is short and of an unsupported mapper gives): which
files `load_rom` refuses, with which name, and what it loads of the others: every PRG and CHR byte at its offset, CHR RAM after the
CHR ROM, every header field, and the System reset. -/
def Obligations.LoadRomReadsTheFile : Prop :=
  ∀ (b4 b5 b6 b7 : Byte) (rest : List Byte) (s : State),
    let bytes := [0x4E, 0x45, 0x53, 0x1A, b4, b5, b6, b7] ++ rest
    let mapper := b6.toNat / 16 + b7.toNat / 16 * 16
    let mirroring := if b6.getLsbD 3 then Mirroring.fourScreen else if b6.getLsbD 0 then .vertical else .horizontal
    let start := 16 + (if b6.getLsbD 2 then 512 else 0)
    let need := start + b4.toNat * 16384 + b5.toNat * 8192
    (∀ file : List Byte, file.take 4 ≠ bytes.take 4 → loadRom file s = .error .unsupportedRom)
      ∧ (b4 = 0 ∨ bytes.length < need → loadRom bytes s = .error .unsupportedRom)
      ∧ (b4 ≠ 0 → need ≤ bytes.length → mapperOfNumber mapper = none → loadRom bytes s = .error (.unsupportedMapper mapper))
      ∧ (b4 ≠ 0 → need ≤ bytes.length → ∀ v, mapperOfNumber mapper = some v →
          ∃ t, loadRom bytes s = .ok t
            ∧ t = systemReset { s with cart := t.cart, romLoaded := true }
            ∧ t.cart.header =
                { prgBanks := b4, chrBanks := b5, mapper := BitVec.ofNat 8 mapper, mirroring := mirroring
                  battery := b6.getLsbD 1, trainer := b6.getLsbD 2, nes2 := decide (b7.toNat / 4 % 4 = 2) }
            ∧ t.cart.variant = v ∧ t.cart.mirroring = mirroring ∧ t.cart.mapper = mapperPowerOnRegs v
            ∧ t.cart.prgSize = b4.toNat * 16384
            ∧ (∀ k, k < b4.toNat * 16384 → t.cart.prgRom.read k = bytes.getD (start + k) 0)
            ∧ t.cart.chrSize = (if b5 = 0 then 8192 else b5.toNat * 8192) + (if v = .waixingVrc4 then 8192 else 0)
            ∧ t.cart.chrRamFrom = b5.toNat * 8192
            ∧ (∀ k, k < b5.toNat * 8192 → t.cart.chr.read k = bytes.getD (start + b4.toNat * 16384 + k) 0)
            ∧ (∀ k, b5.toNat * 8192 ≤ k → t.cart.chr.read k = 0)
            ∧ t.cart.prgRam = [] ∧ t.ram = [] ∧ t.romLoaded = true
            ∧ t.cpu.sp = 0xFD ∧ t.cpu.p = 0x24 ∧ t.cpu.cyclesRemaining = 8
            ∧ t.cpu.pc = mkWord (cartRead t.cart 0xFFFD) (cartRead t.cart 0xFFFC))

/-! ## The APU's channels and the DMC -/

/-- R422, R541, R545 to R549, R557 (D17): a write to $4000-$4013 sets the fields of its register and nothing else, the length only of an
enabled channel; the DMC's output clock, and the reader's fetch at a byte boundary, which sets `dmc_irq` at the end of a sample. -/
def Obligations.ApuChannelWritesAndDmcReader : Prop :=
  (∀ (s : State) (d : Byte),
    let r := fun k => busWrite (BitVec.ofNat 16 (0x4000 + k)) d s
    PulseWritten d (s.apu.enable.getLsbD 0) s.apu.pulse1 (fun k => (r k).apu.pulse1)
      ∧ PulseWritten d (s.apu.enable.getLsbD 1) s.apu.pulse2 (fun k => (r (4 + k)).apu.pulse2)
      ∧ TriangleWritten d (s.apu.enable.getLsbD 2) s.apu.triangle (fun k => (r (8 + k)).apu.triangle)
      ∧ NoiseWritten d (s.apu.enable.getLsbD 3) s.apu.noise (fun k => (r (12 + k)).apu.noise)
      ∧ DmcWritten d s.apu.dmc (fun k => (r (16 + k)).apu.dmc)
      ∧ ∀ k, k < 20 → r k = { s with apu :=
          if k < 4 then { s.apu with pulse1 := (r k).apu.pulse1 }
          else if k < 8 then { s.apu with pulse2 := (r k).apu.pulse2 }
          else if k < 12 then { s.apu with triangle := (r k).apu.triangle }
          else if k < 16 then { s.apu with noise := (r k).apu.noise }
          else { s.apu with dmc := (r k).apu.dmc } })
    ∧ ∀ s : State,
        let d := s.apu.dmc
        let level := if d.silence then d.level.toNat
          else if d.shift.getLsbD 0 then (if d.level.toNat ≤ 125 then d.level.toNat + 2 else d.level.toNat)
          else (if 2 ≤ d.level.toNat then d.level.toNat - 2 else d.level.toNat)
        let u := dmcStep s
        (0 < d.timer → u = { s with apu := { s.apu with dmc := { d with timer := d.timer - 1 } } })
          ∧ (d.timer = 0 →
              u.apu.dmc.timer = s.config.dmcRateTable.getD d.rateIndex.toNat 0 ∧ u.apu.dmc.level.toNat = level
                ∧ (1 < d.bitsRemaining → u = { s with apu := { s.apu with
                    dmc := { d with timer := u.apu.dmc.timer, level := u.apu.dmc.level, shift := d.shift >>> 1
                                    bitsRemaining := d.bitsRemaining - 1 } } })
                ∧ (d.bitsRemaining = 1 → d.bytesRemaining = 0 → u = { s with apu := { s.apu with
                    dmc := { d with timer := u.apu.dmc.timer, level := u.apu.dmc.level, shift := d.shift >>> 1
                                    bitsRemaining := 8, silence := true } } })
                ∧ (d.bitsRemaining = 1 → 0 < d.bytesRemaining → DmcFetched s u))
end

