-- ==== Sys2Proof/Laws/Bits.lean ====
section
/-! SUPPORT. Sys2Proof/Laws/Bits.lean: the laws of the bit helpers and of the flags of P. -/

namespace Sys2Proof.Machine

/-- A bit of a field that was put in. -/
theorem bitAt_putField {n w : Nat} (v : BitVec n) (lo : Nat) (x : BitVec w) (j : Nat) :
    bitAt (putField v lo x) j
      = if j < n then (if lo ≤ j ∧ j < lo + w then bitAt x (j - lo) else bitAt v j) else false := by
  unfold bitAt putField
  by_cases hj : j < n
  · by_cases hlo : lo ≤ j
    · by_cases hw : j < lo + w
      · have h2 : j - lo < w := by omega
        simp [hj, hlo, hw, h2, Nat.not_lt.mpr hlo]
      · have h2 : ¬ j - lo < w := by omega
        simp [hj, hlo, hw, h2, Nat.not_lt.mpr hlo, BitVec.getLsbD_of_ge x (j - lo) (by omega)]
    · have h3 : j < lo := by omega
      simp [hj, hlo, h3]
  · simp [hj]

/-- A bit after one bit was put in. -/
theorem bitAt_putBit {n : Nat} (v : BitVec n) (i : Nat) (b : Bool) (j : Nat) :
    bitAt (putBit v i b) j = if j < n then (if j = i then b else bitAt v j) else false := by
  unfold putBit
  rw [bitAt_putField]
  by_cases hj : j < n
  · by_cases h : j = i
    · subst h; cases b <;> simp [hj, bitAt]
    · rw [if_pos hj, if_pos hj, if_neg (by omega), if_neg h]
  · simp [hj]

/-- A flag after a flag was set. -/
@[simp] theorem getFlag_setFlag (f g : Flag) (x : Bool) (p : Byte) :
    getFlag f (setFlag g x p) = if f = g then x else getFlag f p := by
  unfold getFlag setFlag
  rw [bitAt_putBit]
  have hf : flagIndex f < 8 := by cases f <;> decide
  have hi : flagIndex f = flagIndex g ↔ f = g := by cases f <;> cases g <;> decide
  simp [hf, hi]

/-- Two status bytes with the same flags are the same byte. -/
theorem flag_ext (p q : Byte) (h : ∀ f, getFlag f p = getFlag f q) : p = q := by
  apply BitVec.eq_of_getLsbD_eq
  intro i hi
  have : ∃ f, flagIndex f = i := by
    have : i = 0 ∨ i = 1 ∨ i = 2 ∨ i = 3 ∨ i = 4 ∨ i = 5 ∨ i = 6 ∨ i = 7 := by omega
    rcases this with h | h | h | h | h | h | h | h <;> subst h
    exacts [⟨.c, rfl⟩, ⟨.z, rfl⟩, ⟨.i, rfl⟩, ⟨.d, rfl⟩, ⟨.b, rfl⟩, ⟨.u, rfl⟩, ⟨.v, rfl⟩, ⟨.n, rfl⟩]
  obtain ⟨f, rfl⟩ := this
  exact h f

@[simp] theorem Cpu.flag_setFlag (f g : Flag) (x : Bool) (r : Cpu) :
    (r.setFlag g x).flag f = if f = g then x else r.flag f := getFlag_setFlag f g x r.p

/-- `Cpu.flag` reads P alone. -/
theorem Cpu.flag_eq (f : Flag) (r : Cpu) : r.flag f = getFlag f r.p := rfl

/-- R401: U is 1 after an instruction, every other flag what the instruction left. -/
@[simp] theorem complete_cpu_flag (n : Nat) (s : State) (f : Flag) :
    (complete n s).cpu.flag f = if f = .u then true else s.cpu.flag f := getFlag_setFlag f .u true s.cpu.p

@[simp] theorem forceU_cpu_flag (s : State) (f : Flag) : (forceU s).cpu.flag f = if f = .u then true else s.cpu.flag f :=
  getFlag_setFlag f .u true s.cpu.p

@[simp] theorem beginInstruction_cpu_flag (s : State) (f : Flag) :
    (beginInstruction s).cpu.flag f = if f = .u then true else s.cpu.flag f := getFlag_setFlag f .u true s.cpu.p

/-- A flag of registers of which P alone matters. -/
@[simp] theorem Cpu.flag_mk (a x y sp : Byte) (pc : Word) (p : Byte) (n m : Nat) (b : Bool) (f : Flag) :
    Cpu.flag f { a := a, x := x, y := y, sp := sp, pc := pc, p := p, cyclesRemaining := n, totalCycles := m, brkUnmasked := b } = getFlag f p := rfl

/-- R16: pages differ when the addresses divided by 256 do. -/
theorem crossed_eq (a b : Word) : crossed a b = decide (a.toNat / 256 ≠ b.toNat / 256) := by
  have h : ∀ a : Word, (a.extractLsb' 8 8).toNat = a.toNat / 256 := by
    intro a
    have := a.isLt
    simp only [BitVec.extractLsb'_toNat, Nat.shiftRight_eq_div_pow]
    omega
  unfold crossed page hiByte
  by_cases e : a.extractLsb' 8 8 = b.extractLsb' 8 8
  · have e2 := congrArg BitVec.toNat e
    rw [h, h] at e2
    simp [e, e2]
  · have e2 : a.toNat / 256 ≠ b.toNat / 256 := by
      rw [← h, ← h]
      exact fun k => e (BitVec.eq_of_toNat_eq k)
    simp [e, e2]

/-- Bit 7 of a byte is its sign. -/
theorem bitAt_seven (v : Byte) : bitAt v 7 = v.msb := by
  simp [bitAt, BitVec.msb_eq_getLsbD_last]

/-- R16: the flags after SetNZ. -/
@[simp] theorem Cpu.flag_setNZ (f : Flag) (v : Byte) (r : Cpu) :
    (setNZ v r).flag f = if f = .z then decide (v = 0) else if f = .n then v.msb else r.flag f := by
  rw [← bitAt_seven]
  simp only [setNZ, Cpu.flag_setFlag]
  rfl

/-- The flags of a pulled status byte (R215, R284). -/
@[simp] theorem getFlag_pulledStatus (f : Flag) (v : Byte) :
    getFlag f (pulledStatus v) = if f = .u then true else if f = .b then false else getFlag f v := by
  unfold getFlag pulledStatus bitAt
  cases f <;> simp [flagIndex]

/-- The flags of a pushed status byte (R410). -/
@[simp] theorem getFlag_pushedStatus (f : Flag) (p : Byte) (b : Bool) :
    getFlag f (pushedStatus p b) = if f = .u then true else if f = .b then b else getFlag f p := by
  unfold getFlag pushedStatus bitAt
  cases f <;> cases b <;> simp [flagIndex]

/-- A word is its two bytes. -/
@[simp] theorem mkWord_bytes (a : Word) : mkWord (hiByte a) (loByte a) = a := by
  unfold mkWord hiByte loByte
  apply BitVec.eq_of_getLsbD_eq
  intro i hi
  rw [BitVec.getLsbD_append]
  by_cases h : i < 8
  · simp [h]
  · have h8 : i - 8 < 8 := by omega
    have : 8 + (i - 8) = i := by omega
    simp [h, h8, this]

@[simp] theorem hiByte_mkWord (h l : Byte) : hiByte (mkWord h l) = h := by
  unfold mkWord hiByte
  apply BitVec.eq_of_getLsbD_eq
  intro i hi
  rw [BitVec.getLsbD_extractLsb', BitVec.getLsbD_append]
  simp [hi]

@[simp] theorem loByte_mkWord (h l : Byte) : loByte (mkWord h l) = l := by
  unfold mkWord loByte
  apply BitVec.eq_of_getLsbD_eq
  intro i hi
  rw [BitVec.getLsbD_extractLsb', BitVec.getLsbD_append]
  simp [hi]

theorem zext16_toNat (b : Byte) : (zext16 b).toNat = b.toNat := by
  have := b.isLt
  simp [zext16]; omega

/-- R33: the stack address lies in page 1. -/
theorem stackAddr_toNat (sp : Byte) : (stackAddr sp).toNat = 0x100 + sp.toNat := by
  have h := Nat.two_pow_add_eq_or_of_lt (i := 8) sp.isLt 1
  unfold stackAddr
  rw [BitVec.toNat_or, zext16_toNat]
  exact h.symm

end Sys2Proof.Machine
end

