-- ==== Sys2Proof/Laws/Mapper.lean ====
section
/-! SUPPORT. Sys2Proof/Laws/Mapper.lean: what a mapper write can change, and what it leaves of the eight bank registers. -/

namespace Sys2Proof.Machine

/-- R590: all that a write the mapper takes can change: its registers and the mirroring mode. -/
theorem cpuMapWrite_eq (c : Cartridge) (a : Word) (d : Byte) :
    ∃ m r, cpuMapWrite c a d = { c with mapper := m, mirroring := r } := by
  unfold cpuMapWrite
  split
  · exact ⟨_, _, rfl⟩
  · split_ifs <;> exact ⟨_, _, rfl⟩
  · exact ⟨_, _, rfl⟩

/-- The mapper interface never touches PRG RAM. -/
theorem cpuMapWrite_prgRam (c : Cartridge) (a : Word) (d : Byte) : (cpuMapWrite c a d).prgRam = c.prgRam := by
  obtain ⟨m, r, h⟩ := cpuMapWrite_eq c a d
  rw [h]

theorem cpuMapWrite_nrom (c : Cartridge) (a : Word) (d : Byte) (h : c.variant = .nrom) : cpuMapWrite c a d = c := by
  unfold cpuMapWrite
  rw [h]

/-- R590, R596, R598: the registers a write leaves, of a variant that has any beside UxROM's one. -/
theorem cpuMapWrite_mapper (c : Cartridge) (a : Word) (d : Byte) (h1 : c.variant ≠ .nrom) (h2 : c.variant ≠ .uxrom) :
    (cpuMapWrite c a d).mapper = writtenRegs c.variant c.mapper (freeMapWrite c a d).mapper a d := by
  unfold cpuMapWrite
  split
  · contradiction
  · contradiction
  · rfl

/-- R590, R596, R598: the mirroring a write leaves. -/
theorem cpuMapWrite_mirroring (c : Cartridge) (a : Word) (d : Byte) (h1 : c.variant ≠ .nrom) (h2 : c.variant ≠ .uxrom) :
    (cpuMapWrite c a d).mirroring
      = (writtenMirroring c.variant c.mapper c.mirroring a d).getD (freeMapWrite c a d).mirroring := by
  unfold cpuMapWrite
  split
  · contradiction
  · contradiction
  · rfl

/-- One of eight bank registers loaded: that one holds x, each other what it held. -/
theorem loadBank_getD (k x : Nat) (banks : List Nat) {j : Nat} (h : j < 8) :
    (loadBank k x banks).getD j 0 = if j = k then x else banks.getD j 0 := by
  unfold loadBank
  simp [List.getD_eq_getElem?_getD, h]

/-- `loadBank_getD` in the form `simp` gives a register's value. -/
theorem loadBank_getElem (k x : Nat) (banks : List Nat) {j : Nat} (h : j < 8) :
    (loadBank k x banks)[j]?.getD 0 = if j = k then x else banks[j]?.getD 0 := by
  simpa only [List.getD_eq_getElem?_getD] using loadBank_getD k x banks h

/-- R598: the index of a CHR register of mapper 253 is one of eight, in either reading. -/
theorem waixingIndex_lt (a : Word) : waixingIndex a < 8 := by
  have h : ∀ x : Word, (x &&& 7).toNat < 8 := fun x => by
    rw [BitVec.toNat_and]
    exact Nat.lt_of_le_of_lt Nat.and_le_right (by decide)
  unfold waixingIndex
  dsimp only
  split_ifs
  · exact h _
  · exact h _

/-- R596: a bank-register write loads the register it names, if any, and no other. -/
theorem writeBank_getD (w : Option (Fin 8 × Nat)) (banks : List Nat) {k : Nat} (h : k < 8) :
    (writeBank w banks).getD k 0 =
      match w with
      | some (i, x) => if k = i.val then x else banks.getD k 0
      | none => banks.getD k 0 := by
  cases w with
  | none => rfl
  | some w => exact loadBank_getD _ _ _ h

/-- R423, R599: no hook clears the pending bit. -/
theorem hook_keeps_pending (v : MapperVariant) (m : MapperRegs) (h : m.irqPending = true) :
    (scanlineTickRegs v m).irqPending = true ∧ (cpuTickRegs v m).irqPending = true := by
  have h3 : (mmc3ScanlineTick m).irqPending = true := by
    unfold mmc3ScanlineTick
    dsimp only
    split_ifs <;> first | exact h | rfl
  have hb : (bandaiCpuTick m).irqPending = true := by
    unfold bandaiCpuTick
    dsimp only
    split_ifs <;> first | exact h | rfl
  have hv : (vrcTick m).irqPending = true := by
    unfold vrcTick counterClock
    dsimp only
    split_ifs <;> simp [h]
  have hr : ∀ f, (hookRegs m f).irqPending = true := fun f => by simp [hookRegs, h]
  constructor <;> cases v <;>
    first | exact h | exact h3 | exact hb | exact hr _ | (simp only [scanlineTickRegs, cpuTickRegs]; split_ifs <;> first | exact h | exact hv)

end Sys2Proof.Machine
end

