-- ==== Sys2Proof/Laws/Memory.lean ====
section
/-! SUPPORT. Sys2Proof/Laws/Memory.lean: reading after writing, and that every memory operation keeps the canonical form and the size. -/

namespace Sys2Proof.Machine

@[simp] theorem Memory.read_nil (k : Nat) : Memory.read [] k = 0 := rfl

theorem Memory.read_cons (a : Nat) (b : Byte) (m : Memory) (k : Nat) :
    Memory.read ((a, b) :: m) k = if a = k then b else Memory.read m k := rfl

/-- A byte no cell lists reads as $00. -/
theorem Memory.read_unlisted (m : Memory) (k : Nat) (h : ∀ c ∈ m, c.1 ≠ k) : Memory.read m k = 0 := by
  induction m with
  | nil => rfl
  | cons c m ih =>
    obtain ⟨a, b⟩ := c
    have ha : a ≠ k := h (a, b) (by simp)
    rw [Memory.read_cons, if_neg ha]
    exact ih fun c hc => h c (by simp [hc])

/-- A write leaves every other byte alone, in any memory. -/
theorem Memory.read_write_other (m : Memory) (k j : Nat) (v : Byte) (h : j ≠ k) :
    Memory.read (Memory.write m k v) j = Memory.read m j := by
  induction m with
  | nil =>
    unfold Memory.write
    split
    · rfl
    · rw [Memory.read_cons, if_neg (Ne.symm h)]
  | cons c m ih =>
    obtain ⟨a, b⟩ := c
    unfold Memory.write
    split
    · split
      · rfl
      · rw [Memory.read_cons, if_neg (Ne.symm h)]
    · split
      · rename_i hk
        subst hk
        split
        · rw [Memory.read_cons, if_neg (Ne.symm h)]
        · rw [Memory.read_cons, Memory.read_cons, if_neg (Ne.symm h), if_neg (Ne.symm h)]
      · rw [Memory.read_cons, Memory.read_cons, ih]

/-- A byte written is read back, in a canonical memory. -/
theorem Memory.read_write_same (m : Memory) (k : Nat) (v : Byte) (hm : m.wf) :
    Memory.read (Memory.write m k v) k = v := by
  induction m with
  | nil =>
    unfold Memory.write
    split
    · rename_i hv; rw [hv]; rfl
    · rw [Memory.read_cons, if_pos rfl]
  | cons c m ih =>
    obtain ⟨a, b⟩ := c
    have hlt : ∀ c ∈ m, a < c.1 := (List.pairwise_cons.mp hm.1).1
    have hwf : Memory.wf m := ⟨(List.pairwise_cons.mp hm.1).2, fun c hc => hm.2 c (by simp [hc])⟩
    unfold Memory.write
    split
    · rename_i hk
      split
      · rename_i hv
        rw [hv]
        apply Memory.read_unlisted
        intro c hc
        rcases List.mem_cons.mp hc with h | h
        · subst h; exact fun h => by simp at h; omega
        · have := hlt c h; omega
      · rw [Memory.read_cons, if_pos rfl]
    · split
      · rename_i hk
        subst hk
        split
        · rename_i hv
          rw [hv]
          exact Memory.read_unlisted _ _ fun c hc => by have := hlt c hc; omega
        · rw [Memory.read_cons, if_pos rfl]
      · rename_i h1 h2
        rw [Memory.read_cons, if_neg (Ne.symm h2), ih hwf]

/-- What a write can list: the written cell, or a cell listed before. -/
theorem Memory.mem_write (m : Memory) (k : Nat) (v : Byte) (c : Host.Cell) (h : c ∈ Memory.write m k v) :
    (c = (k, v) ∧ v ≠ 0) ∨ c ∈ m := by
  induction m with
  | nil =>
    unfold Memory.write at h
    split at h
    · simp at h
    · rename_i hv; exact .inl ⟨by simpa using h, hv⟩
  | cons d m ih =>
    obtain ⟨a, b⟩ := d
    unfold Memory.write at h
    split at h
    · split at h
      · exact .inr h
      · rename_i hv
        rcases List.mem_cons.mp h with h | h
        · exact .inl ⟨h, hv⟩
        · exact .inr h
    · split at h
      · split at h
        · exact .inr (by simp [h])
        · rename_i hv
          rcases List.mem_cons.mp h with h | h
          · exact .inl ⟨h, hv⟩
          · exact .inr (by simp [h])
      · rcases List.mem_cons.mp h with h | h
        · exact .inr (by simp [h])
        · rcases ih h with h | h
          · exact .inl h
          · exact .inr (by simp [h])

/-- A write keeps the canonical form. -/
theorem Memory.write_wf (m : Memory) (k : Nat) (v : Byte) (hm : m.wf) : (Memory.write m k v).wf := by
  refine ⟨?_, fun c hc => ?_⟩
  · induction m with
    | nil => unfold Memory.write; split <;> simp
    | cons c m ih =>
      obtain ⟨a, b⟩ := c
      have hlt : ∀ c ∈ m, a < c.1 := (List.pairwise_cons.mp hm.1).1
      have hp : m.Pairwise (fun c d => c.1 < d.1) := (List.pairwise_cons.mp hm.1).2
      have hwf : Memory.wf m := ⟨hp, fun c hc => hm.2 c (by simp [hc])⟩
      unfold Memory.write
      split
      · rename_i hk
        split
        · exact hm.1
        · refine List.pairwise_cons.mpr ⟨fun c hc => ?_, hm.1⟩
          rcases List.mem_cons.mp hc with h | h
          · subst h; exact hk
          · have := hlt c h; simp; omega
      · split
        · rename_i hk
          subst hk
          split
          · exact hp
          · exact List.pairwise_cons.mpr ⟨hlt, hp⟩
        · rename_i h1 h2
          refine List.pairwise_cons.mpr ⟨fun c hc => ?_, ih hwf⟩
          rcases Memory.mem_write m k v c hc with ⟨h, -⟩ | h
          · subst h; simp; omega
          · exact hlt c h
  · rcases Memory.mem_write m k v c hc with ⟨h, hv⟩ | h
    · subst h; exact hv
    · exact hm.2 c h

/-- A write below the size keeps the size. -/
theorem Memory.write_below (m : Memory) (k : Nat) (v : Byte) (size : Nat) (hk : k < size) (hm : m.below size) :
    (Memory.write m k v).below size := by
  intro c hc
  rcases Memory.mem_write m k v c hc with ⟨h, -⟩ | h
  · subst h; exact hk
  · exact hm c h

/-- A write below the size keeps form and size together. -/
theorem Memory.write_ok (m : Memory) (k : Nat) (v : Byte) (size : Nat) (hk : k < size) (hm : m.Ok size) :
    (Memory.write m k v).Ok size :=
  ⟨Memory.write_wf m k v hm.1, Memory.write_below m k v size hk hm.2⟩

/-- The empty memory is canonical, of any size. -/
theorem Memory.nil_ok (size : Nat) : Memory.Ok [] size := ⟨⟨.nil, by simp⟩, by simp [Memory.below]⟩

/-- A run of writes below the size keeps form and size. -/
theorem Memory.writeAll_ok (vs : List Byte) (m : Memory) (k size : Nat) (hk : k + vs.length ≤ size) (hm : m.Ok size) :
    (Memory.writeAll m k vs).Ok size := by
  induction vs generalizing m k with
  | nil => exact hm
  | cons v vs ih =>
    simp only [List.length_cons] at hk
    exact ih _ _ (by omega) (Memory.write_ok m k v size (by omega) hm)

/-- A memory made of bytes is canonical and as large as they are. -/
theorem Memory.ofBytes_ok (bs : List Byte) : (Memory.ofBytes bs).Ok bs.length := by
  have hidx : ∀ (l : List Byte) (n : Nat), ∀ c ∈ (l.zipIdx n).map (fun c => (c.2, c.1)), n ≤ c.1 ∧ c.1 < n + l.length := by
    intro l
    induction l with
    | nil => intro n c hc; simp at hc
    | cons b l ih =>
      intro n c hc
      simp only [List.zipIdx_cons, List.map_cons, List.mem_cons] at hc
      rcases hc with h | h
      · subst h; simp
      · have := ih (n + 1) c h
        simp only [List.length_cons]; omega
  have hpair : ∀ (l : List Byte) (n : Nat), ((l.zipIdx n).map (fun c => (c.2, c.1))).Pairwise (fun c d => c.1 < d.1) := by
    intro l
    induction l with
    | nil => intro n; simp
    | cons b l ih =>
      intro n
      simp only [List.zipIdx_cons, List.map_cons, List.pairwise_cons]
      exact ⟨fun c hc => (hidx l (n + 1) c hc).1, ih (n + 1)⟩
  refine ⟨⟨(hpair bs 0).filter _, fun c hc => ?_⟩, fun c hc => ?_⟩
  · simpa using (List.mem_filter.mp hc).2
  · simpa using (hidx bs 0 c (List.mem_filter.mp hc).1).2

/-- What a frame buffer write can list. -/
theorem FrameBuffer.mem_write (m : FrameBuffer) (k : Nat) (v : BitVec 32) (c : Nat × BitVec 32)
    (h : c ∈ FrameBuffer.write m k v) : c = (k, v) ∨ c ∈ m := by
  induction m with
  | nil => unfold FrameBuffer.write at h; exact .inl (by simpa using h)
  | cons d m ih =>
    obtain ⟨a, b⟩ := d
    unfold FrameBuffer.write at h
    split at h
    · rcases List.mem_cons.mp h with h | h
      · exact .inl h
      · exact .inr h
    · split at h
      · rcases List.mem_cons.mp h with h | h
        · exact .inl h
        · exact .inr (by simp [h])
      · rcases List.mem_cons.mp h with h | h
        · exact .inr (by simp [h])
        · rcases ih h with h | h
          · exact .inl h
          · exact .inr (by simp [h])

/-- Writing a pixel that is not 0 keeps the frame buffer canonical. -/
theorem FrameBuffer.write_wf (m : FrameBuffer) (k : Nat) (v : BitVec 32) (hv : v ≠ 0) (hm : m.wf) :
    (FrameBuffer.write m k v).wf := by
  refine ⟨?_, fun c hc => ?_⟩
  · induction m with
    | nil => unfold FrameBuffer.write; simp
    | cons c m ih =>
      obtain ⟨a, b⟩ := c
      have hlt : ∀ c ∈ m, a < c.1 := (List.pairwise_cons.mp hm.1).1
      have hp : m.Pairwise (fun c d => c.1 < d.1) := (List.pairwise_cons.mp hm.1).2
      have hwf : FrameBuffer.wf m := ⟨hp, fun c hc => hm.2 c (by simp [hc])⟩
      unfold FrameBuffer.write
      split
      · rename_i hk
        refine List.pairwise_cons.mpr ⟨fun c hc => ?_, hm.1⟩
        rcases List.mem_cons.mp hc with h | h
        · subst h; exact hk
        · have := hlt c h; simp; omega
      · split
        · rename_i hk
          subst hk
          exact List.pairwise_cons.mpr ⟨hlt, hp⟩
        · rename_i h1 h2
          refine List.pairwise_cons.mpr ⟨fun c hc => ?_, ih hwf⟩
          rcases FrameBuffer.mem_write m k v c hc with h | h
          · subst h; simp; omega
          · exact hlt c h
  · rcases FrameBuffer.mem_write m k v c hc with h | h
    · subst h; exact hv
    · exact hm.2 c h

/-- R536: a pixel written is opaque, so never the unlisted 0. -/
theorem argb_ne_zero (colour : BitVec 6) : argb colour ≠ 0 := by
  intro h
  have h31 : (argb colour).getLsbD 31 = (0 : BitVec 32).getLsbD 31 := by rw [h]
  rw [argb, BitVec.getLsbD_append] at h31
  simp at h31

end Sys2Proof.Machine
end

