-- ==== Sys2Proof/Laws/State.lean ====
section
/-! SUPPORT. Sys2Proof/Laws/State.lean: each field of State after each named update, true by rfl, so that no proof unfolds a record update. -/

namespace Sys2Proof.Machine

variable (s : State) (r : Cpu) (b : Byte) (a : Word) (n : Nat) (f : Flag) (x : Bool)

/-! `setA` -/

@[simp] theorem setA_cpu_a : (setA b s).cpu.a = b := rfl
@[simp] theorem setA_cpu_x : (setA b s).cpu.x = s.cpu.x := rfl
@[simp] theorem setA_cpu_y : (setA b s).cpu.y = s.cpu.y := rfl
@[simp] theorem setA_cpu_sp : (setA b s).cpu.sp = s.cpu.sp := rfl
@[simp] theorem setA_cpu_pc : (setA b s).cpu.pc = s.cpu.pc := rfl
@[simp] theorem setA_cpu_p : (setA b s).cpu.p = s.cpu.p := rfl
@[simp] theorem setA_cpu_cyclesRemaining : (setA b s).cpu.cyclesRemaining = s.cpu.cyclesRemaining := rfl
@[simp] theorem setA_cpu_totalCycles : (setA b s).cpu.totalCycles = s.cpu.totalCycles := rfl
@[simp] theorem setA_cpu_brkUnmasked : (setA b s).cpu.brkUnmasked = s.cpu.brkUnmasked := rfl
@[simp] theorem setA_ram : (setA b s).ram = s.ram := rfl
@[simp] theorem setA_ppu : (setA b s).ppu = s.ppu := rfl
@[simp] theorem setA_apu : (setA b s).apu = s.apu := rfl
@[simp] theorem setA_cart : (setA b s).cart = s.cart := rfl
@[simp] theorem setA_pads : (setA b s).pads = s.pads := rfl
@[simp] theorem setA_dma : (setA b s).dma = s.dma := rfl
@[simp] theorem setA_dmcStall : (setA b s).dmcStall = s.dmcStall := rfl
@[simp] theorem setA_masterCount : (setA b s).masterCount = s.masterCount := rfl
@[simp] theorem setA_cpuTickCount : (setA b s).cpuTickCount = s.cpuTickCount := rfl
@[simp] theorem setA_romLoaded : (setA b s).romLoaded = s.romLoaded := rfl
@[simp] theorem setA_config : (setA b s).config = s.config := rfl

/-! `setX` -/

@[simp] theorem setX_cpu_a : (setX b s).cpu.a = s.cpu.a := rfl
@[simp] theorem setX_cpu_x : (setX b s).cpu.x = b := rfl
@[simp] theorem setX_cpu_y : (setX b s).cpu.y = s.cpu.y := rfl
@[simp] theorem setX_cpu_sp : (setX b s).cpu.sp = s.cpu.sp := rfl
@[simp] theorem setX_cpu_pc : (setX b s).cpu.pc = s.cpu.pc := rfl
@[simp] theorem setX_cpu_p : (setX b s).cpu.p = s.cpu.p := rfl
@[simp] theorem setX_cpu_cyclesRemaining : (setX b s).cpu.cyclesRemaining = s.cpu.cyclesRemaining := rfl
@[simp] theorem setX_cpu_totalCycles : (setX b s).cpu.totalCycles = s.cpu.totalCycles := rfl
@[simp] theorem setX_cpu_brkUnmasked : (setX b s).cpu.brkUnmasked = s.cpu.brkUnmasked := rfl
@[simp] theorem setX_ram : (setX b s).ram = s.ram := rfl
@[simp] theorem setX_ppu : (setX b s).ppu = s.ppu := rfl
@[simp] theorem setX_apu : (setX b s).apu = s.apu := rfl
@[simp] theorem setX_cart : (setX b s).cart = s.cart := rfl
@[simp] theorem setX_pads : (setX b s).pads = s.pads := rfl
@[simp] theorem setX_dma : (setX b s).dma = s.dma := rfl
@[simp] theorem setX_dmcStall : (setX b s).dmcStall = s.dmcStall := rfl
@[simp] theorem setX_masterCount : (setX b s).masterCount = s.masterCount := rfl
@[simp] theorem setX_cpuTickCount : (setX b s).cpuTickCount = s.cpuTickCount := rfl
@[simp] theorem setX_romLoaded : (setX b s).romLoaded = s.romLoaded := rfl
@[simp] theorem setX_config : (setX b s).config = s.config := rfl

/-! `setY` -/

@[simp] theorem setY_cpu_a : (setY b s).cpu.a = s.cpu.a := rfl
@[simp] theorem setY_cpu_x : (setY b s).cpu.x = s.cpu.x := rfl
@[simp] theorem setY_cpu_y : (setY b s).cpu.y = b := rfl
@[simp] theorem setY_cpu_sp : (setY b s).cpu.sp = s.cpu.sp := rfl
@[simp] theorem setY_cpu_pc : (setY b s).cpu.pc = s.cpu.pc := rfl
@[simp] theorem setY_cpu_p : (setY b s).cpu.p = s.cpu.p := rfl
@[simp] theorem setY_cpu_cyclesRemaining : (setY b s).cpu.cyclesRemaining = s.cpu.cyclesRemaining := rfl
@[simp] theorem setY_cpu_totalCycles : (setY b s).cpu.totalCycles = s.cpu.totalCycles := rfl
@[simp] theorem setY_cpu_brkUnmasked : (setY b s).cpu.brkUnmasked = s.cpu.brkUnmasked := rfl
@[simp] theorem setY_ram : (setY b s).ram = s.ram := rfl
@[simp] theorem setY_ppu : (setY b s).ppu = s.ppu := rfl
@[simp] theorem setY_apu : (setY b s).apu = s.apu := rfl
@[simp] theorem setY_cart : (setY b s).cart = s.cart := rfl
@[simp] theorem setY_pads : (setY b s).pads = s.pads := rfl
@[simp] theorem setY_dma : (setY b s).dma = s.dma := rfl
@[simp] theorem setY_dmcStall : (setY b s).dmcStall = s.dmcStall := rfl
@[simp] theorem setY_masterCount : (setY b s).masterCount = s.masterCount := rfl
@[simp] theorem setY_cpuTickCount : (setY b s).cpuTickCount = s.cpuTickCount := rfl
@[simp] theorem setY_romLoaded : (setY b s).romLoaded = s.romLoaded := rfl
@[simp] theorem setY_config : (setY b s).config = s.config := rfl

/-! `setSp` -/

@[simp] theorem setSp_cpu_a : (setSp b s).cpu.a = s.cpu.a := rfl
@[simp] theorem setSp_cpu_x : (setSp b s).cpu.x = s.cpu.x := rfl
@[simp] theorem setSp_cpu_y : (setSp b s).cpu.y = s.cpu.y := rfl
@[simp] theorem setSp_cpu_sp : (setSp b s).cpu.sp = b := rfl
@[simp] theorem setSp_cpu_pc : (setSp b s).cpu.pc = s.cpu.pc := rfl
@[simp] theorem setSp_cpu_p : (setSp b s).cpu.p = s.cpu.p := rfl
@[simp] theorem setSp_cpu_cyclesRemaining : (setSp b s).cpu.cyclesRemaining = s.cpu.cyclesRemaining := rfl
@[simp] theorem setSp_cpu_totalCycles : (setSp b s).cpu.totalCycles = s.cpu.totalCycles := rfl
@[simp] theorem setSp_cpu_brkUnmasked : (setSp b s).cpu.brkUnmasked = s.cpu.brkUnmasked := rfl
@[simp] theorem setSp_ram : (setSp b s).ram = s.ram := rfl
@[simp] theorem setSp_ppu : (setSp b s).ppu = s.ppu := rfl
@[simp] theorem setSp_apu : (setSp b s).apu = s.apu := rfl
@[simp] theorem setSp_cart : (setSp b s).cart = s.cart := rfl
@[simp] theorem setSp_pads : (setSp b s).pads = s.pads := rfl
@[simp] theorem setSp_dma : (setSp b s).dma = s.dma := rfl
@[simp] theorem setSp_dmcStall : (setSp b s).dmcStall = s.dmcStall := rfl
@[simp] theorem setSp_masterCount : (setSp b s).masterCount = s.masterCount := rfl
@[simp] theorem setSp_cpuTickCount : (setSp b s).cpuTickCount = s.cpuTickCount := rfl
@[simp] theorem setSp_romLoaded : (setSp b s).romLoaded = s.romLoaded := rfl
@[simp] theorem setSp_config : (setSp b s).config = s.config := rfl

/-! `setPc` -/

@[simp] theorem setPc_cpu_a : (setPc a s).cpu.a = s.cpu.a := rfl
@[simp] theorem setPc_cpu_x : (setPc a s).cpu.x = s.cpu.x := rfl
@[simp] theorem setPc_cpu_y : (setPc a s).cpu.y = s.cpu.y := rfl
@[simp] theorem setPc_cpu_sp : (setPc a s).cpu.sp = s.cpu.sp := rfl
@[simp] theorem setPc_cpu_pc : (setPc a s).cpu.pc = a := rfl
@[simp] theorem setPc_cpu_p : (setPc a s).cpu.p = s.cpu.p := rfl
@[simp] theorem setPc_cpu_cyclesRemaining : (setPc a s).cpu.cyclesRemaining = s.cpu.cyclesRemaining := rfl
@[simp] theorem setPc_cpu_totalCycles : (setPc a s).cpu.totalCycles = s.cpu.totalCycles := rfl
@[simp] theorem setPc_cpu_brkUnmasked : (setPc a s).cpu.brkUnmasked = s.cpu.brkUnmasked := rfl
@[simp] theorem setPc_ram : (setPc a s).ram = s.ram := rfl
@[simp] theorem setPc_ppu : (setPc a s).ppu = s.ppu := rfl
@[simp] theorem setPc_apu : (setPc a s).apu = s.apu := rfl
@[simp] theorem setPc_cart : (setPc a s).cart = s.cart := rfl
@[simp] theorem setPc_pads : (setPc a s).pads = s.pads := rfl
@[simp] theorem setPc_dma : (setPc a s).dma = s.dma := rfl
@[simp] theorem setPc_dmcStall : (setPc a s).dmcStall = s.dmcStall := rfl
@[simp] theorem setPc_masterCount : (setPc a s).masterCount = s.masterCount := rfl
@[simp] theorem setPc_cpuTickCount : (setPc a s).cpuTickCount = s.cpuTickCount := rfl
@[simp] theorem setPc_romLoaded : (setPc a s).romLoaded = s.romLoaded := rfl
@[simp] theorem setPc_config : (setPc a s).config = s.config := rfl

/-! `setP` -/

@[simp] theorem setP_cpu_a : (setP b s).cpu.a = s.cpu.a := rfl
@[simp] theorem setP_cpu_x : (setP b s).cpu.x = s.cpu.x := rfl
@[simp] theorem setP_cpu_y : (setP b s).cpu.y = s.cpu.y := rfl
@[simp] theorem setP_cpu_sp : (setP b s).cpu.sp = s.cpu.sp := rfl
@[simp] theorem setP_cpu_pc : (setP b s).cpu.pc = s.cpu.pc := rfl
@[simp] theorem setP_cpu_p : (setP b s).cpu.p = b := rfl
@[simp] theorem setP_cpu_cyclesRemaining : (setP b s).cpu.cyclesRemaining = s.cpu.cyclesRemaining := rfl
@[simp] theorem setP_cpu_totalCycles : (setP b s).cpu.totalCycles = s.cpu.totalCycles := rfl
@[simp] theorem setP_cpu_brkUnmasked : (setP b s).cpu.brkUnmasked = s.cpu.brkUnmasked := rfl
@[simp] theorem setP_ram : (setP b s).ram = s.ram := rfl
@[simp] theorem setP_ppu : (setP b s).ppu = s.ppu := rfl
@[simp] theorem setP_apu : (setP b s).apu = s.apu := rfl
@[simp] theorem setP_cart : (setP b s).cart = s.cart := rfl
@[simp] theorem setP_pads : (setP b s).pads = s.pads := rfl
@[simp] theorem setP_dma : (setP b s).dma = s.dma := rfl
@[simp] theorem setP_dmcStall : (setP b s).dmcStall = s.dmcStall := rfl
@[simp] theorem setP_masterCount : (setP b s).masterCount = s.masterCount := rfl
@[simp] theorem setP_cpuTickCount : (setP b s).cpuTickCount = s.cpuTickCount := rfl
@[simp] theorem setP_romLoaded : (setP b s).romLoaded = s.romLoaded := rfl
@[simp] theorem setP_config : (setP b s).config = s.config := rfl

/-! `setCpu` -/

@[simp] theorem setCpu_cpu : (setCpu r s).cpu = r := rfl
@[simp] theorem setCpu_ram : (setCpu r s).ram = s.ram := rfl
@[simp] theorem setCpu_ppu : (setCpu r s).ppu = s.ppu := rfl
@[simp] theorem setCpu_apu : (setCpu r s).apu = s.apu := rfl
@[simp] theorem setCpu_cart : (setCpu r s).cart = s.cart := rfl
@[simp] theorem setCpu_pads : (setCpu r s).pads = s.pads := rfl
@[simp] theorem setCpu_dma : (setCpu r s).dma = s.dma := rfl
@[simp] theorem setCpu_dmcStall : (setCpu r s).dmcStall = s.dmcStall := rfl
@[simp] theorem setCpu_masterCount : (setCpu r s).masterCount = s.masterCount := rfl
@[simp] theorem setCpu_cpuTickCount : (setCpu r s).cpuTickCount = s.cpuTickCount := rfl
@[simp] theorem setCpu_romLoaded : (setCpu r s).romLoaded = s.romLoaded := rfl
@[simp] theorem setCpu_config : (setCpu r s).config = s.config := rfl

/-! `setDmc` -/

@[simp] theorem setDmc_cpu (d : Dmc) : (setDmc d s).cpu = s.cpu := rfl
@[simp] theorem setDmc_ram (d : Dmc) : (setDmc d s).ram = s.ram := rfl
@[simp] theorem setDmc_ppu (d : Dmc) : (setDmc d s).ppu = s.ppu := rfl
@[simp] theorem setDmc_cart (d : Dmc) : (setDmc d s).cart = s.cart := rfl
@[simp] theorem setDmc_pads (d : Dmc) : (setDmc d s).pads = s.pads := rfl
@[simp] theorem setDmc_dma (d : Dmc) : (setDmc d s).dma = s.dma := rfl
@[simp] theorem setDmc_dmcStall (d : Dmc) : (setDmc d s).dmcStall = s.dmcStall := rfl
@[simp] theorem setDmc_masterCount (d : Dmc) : (setDmc d s).masterCount = s.masterCount := rfl
@[simp] theorem setDmc_cpuTickCount (d : Dmc) : (setDmc d s).cpuTickCount = s.cpuTickCount := rfl
@[simp] theorem setDmc_romLoaded (d : Dmc) : (setDmc d s).romLoaded = s.romLoaded := rfl
@[simp] theorem setDmc_config (d : Dmc) : (setDmc d s).config = s.config := rfl
@[simp] theorem setDmc_apu_pulse1 (d : Dmc) : (setDmc d s).apu.pulse1 = s.apu.pulse1 := rfl
@[simp] theorem setDmc_apu_pulse2 (d : Dmc) : (setDmc d s).apu.pulse2 = s.apu.pulse2 := rfl
@[simp] theorem setDmc_apu_triangle (d : Dmc) : (setDmc d s).apu.triangle = s.apu.triangle := rfl
@[simp] theorem setDmc_apu_noise (d : Dmc) : (setDmc d s).apu.noise = s.apu.noise := rfl
@[simp] theorem setDmc_apu_enable (d : Dmc) : (setDmc d s).apu.enable = s.apu.enable := rfl
@[simp] theorem setDmc_apu_frame (d : Dmc) : (setDmc d s).apu.frame = s.apu.frame := rfl
@[simp] theorem setDmc_apu_tickCount (d : Dmc) : (setDmc d s).apu.tickCount = s.apu.tickCount := rfl
@[simp] theorem setDmc_apu_audio (d : Dmc) : (setDmc d s).apu.audio = s.apu.audio := rfl
@[simp] theorem setDmc_apu_dmc (d : Dmc) : (setDmc d s).apu.dmc = d := rfl

/-! `Cpu.setFlag` and `setNZ`: registers other than P -/

@[simp] theorem Cpu.setFlag_a : (r.setFlag f x).a = r.a := rfl
@[simp] theorem Cpu.setFlag_x : (r.setFlag f x).x = r.x := rfl
@[simp] theorem Cpu.setFlag_y : (r.setFlag f x).y = r.y := rfl
@[simp] theorem Cpu.setFlag_sp : (r.setFlag f x).sp = r.sp := rfl
@[simp] theorem Cpu.setFlag_pc : (r.setFlag f x).pc = r.pc := rfl
@[simp] theorem Cpu.setFlag_cyclesRemaining : (r.setFlag f x).cyclesRemaining = r.cyclesRemaining := rfl
@[simp] theorem Cpu.setFlag_totalCycles : (r.setFlag f x).totalCycles = r.totalCycles := rfl
@[simp] theorem Cpu.setFlag_brkUnmasked : (r.setFlag f x).brkUnmasked = r.brkUnmasked := rfl
@[simp] theorem Cpu.setFlag_p : (r.setFlag f x).p = Sys2Proof.Machine.setFlag f x r.p := rfl
@[simp] theorem setNZ_a : (setNZ b r).a = r.a := rfl
@[simp] theorem setNZ_x : (setNZ b r).x = r.x := rfl
@[simp] theorem setNZ_y : (setNZ b r).y = r.y := rfl
@[simp] theorem setNZ_sp : (setNZ b r).sp = r.sp := rfl
@[simp] theorem setNZ_pc : (setNZ b r).pc = r.pc := rfl
@[simp] theorem setNZ_cyclesRemaining : (setNZ b r).cyclesRemaining = r.cyclesRemaining := rfl
@[simp] theorem setNZ_totalCycles : (setNZ b r).totalCycles = r.totalCycles := rfl
@[simp] theorem setNZ_brkUnmasked : (setNZ b r).brkUnmasked = r.brkUnmasked := rfl

/-! `setBrkUnmasked` and `beginInstruction` -/

@[simp] theorem setBrkUnmasked_cpu_a : (setBrkUnmasked x s).cpu.a = s.cpu.a := rfl
@[simp] theorem setBrkUnmasked_cpu_x : (setBrkUnmasked x s).cpu.x = s.cpu.x := rfl
@[simp] theorem setBrkUnmasked_cpu_y : (setBrkUnmasked x s).cpu.y = s.cpu.y := rfl
@[simp] theorem setBrkUnmasked_cpu_sp : (setBrkUnmasked x s).cpu.sp = s.cpu.sp := rfl
@[simp] theorem setBrkUnmasked_cpu_pc : (setBrkUnmasked x s).cpu.pc = s.cpu.pc := rfl
@[simp] theorem setBrkUnmasked_cpu_p : (setBrkUnmasked x s).cpu.p = s.cpu.p := rfl
@[simp] theorem setBrkUnmasked_cpu_cyclesRemaining : (setBrkUnmasked x s).cpu.cyclesRemaining = s.cpu.cyclesRemaining := rfl
@[simp] theorem setBrkUnmasked_cpu_totalCycles : (setBrkUnmasked x s).cpu.totalCycles = s.cpu.totalCycles := rfl
@[simp] theorem setBrkUnmasked_cpu_flag : (setBrkUnmasked x s).cpu.flag f = s.cpu.flag f := rfl
@[simp] theorem setBrkUnmasked_cpu_brkUnmasked : (setBrkUnmasked x s).cpu.brkUnmasked = x := rfl
@[simp] theorem setBrkUnmasked_ram : (setBrkUnmasked x s).ram = s.ram := rfl
@[simp] theorem setBrkUnmasked_ppu : (setBrkUnmasked x s).ppu = s.ppu := rfl
@[simp] theorem setBrkUnmasked_apu : (setBrkUnmasked x s).apu = s.apu := rfl
@[simp] theorem setBrkUnmasked_cart : (setBrkUnmasked x s).cart = s.cart := rfl
@[simp] theorem setBrkUnmasked_pads : (setBrkUnmasked x s).pads = s.pads := rfl
@[simp] theorem setBrkUnmasked_dma : (setBrkUnmasked x s).dma = s.dma := rfl
@[simp] theorem setBrkUnmasked_dmcStall : (setBrkUnmasked x s).dmcStall = s.dmcStall := rfl
@[simp] theorem setBrkUnmasked_masterCount : (setBrkUnmasked x s).masterCount = s.masterCount := rfl
@[simp] theorem setBrkUnmasked_cpuTickCount : (setBrkUnmasked x s).cpuTickCount = s.cpuTickCount := rfl
@[simp] theorem setBrkUnmasked_romLoaded : (setBrkUnmasked x s).romLoaded = s.romLoaded := rfl
@[simp] theorem setBrkUnmasked_config : (setBrkUnmasked x s).config = s.config := rfl
@[simp] theorem beginInstruction_cpu_a : (beginInstruction s).cpu.a = s.cpu.a := rfl
@[simp] theorem beginInstruction_cpu_x : (beginInstruction s).cpu.x = s.cpu.x := rfl
@[simp] theorem beginInstruction_cpu_y : (beginInstruction s).cpu.y = s.cpu.y := rfl
@[simp] theorem beginInstruction_cpu_sp : (beginInstruction s).cpu.sp = s.cpu.sp := rfl
@[simp] theorem beginInstruction_cpu_pc : (beginInstruction s).cpu.pc = s.cpu.pc := rfl
@[simp] theorem beginInstruction_cpu_cyclesRemaining : (beginInstruction s).cpu.cyclesRemaining = s.cpu.cyclesRemaining := rfl
@[simp] theorem beginInstruction_cpu_totalCycles : (beginInstruction s).cpu.totalCycles = s.cpu.totalCycles := rfl
@[simp] theorem beginInstruction_cpu_p : (beginInstruction s).cpu.p = setFlag .u true s.cpu.p := rfl
@[simp] theorem beginInstruction_cpu_brkUnmasked : (beginInstruction s).cpu.brkUnmasked = false := rfl
@[simp] theorem beginInstruction_ram : (beginInstruction s).ram = s.ram := rfl
@[simp] theorem beginInstruction_ppu : (beginInstruction s).ppu = s.ppu := rfl
@[simp] theorem beginInstruction_apu : (beginInstruction s).apu = s.apu := rfl
@[simp] theorem beginInstruction_cart : (beginInstruction s).cart = s.cart := rfl
@[simp] theorem beginInstruction_pads : (beginInstruction s).pads = s.pads := rfl
@[simp] theorem beginInstruction_dma : (beginInstruction s).dma = s.dma := rfl
@[simp] theorem beginInstruction_dmcStall : (beginInstruction s).dmcStall = s.dmcStall := rfl
@[simp] theorem beginInstruction_masterCount : (beginInstruction s).masterCount = s.masterCount := rfl
@[simp] theorem beginInstruction_cpuTickCount : (beginInstruction s).cpuTickCount = s.cpuTickCount := rfl
@[simp] theorem beginInstruction_romLoaded : (beginInstruction s).romLoaded = s.romLoaded := rfl
@[simp] theorem beginInstruction_config : (beginInstruction s).config = s.config := rfl

/-! `forceU` and `complete` -/

@[simp] theorem forceU_cpu_a : (forceU s).cpu.a = s.cpu.a := rfl
@[simp] theorem forceU_cpu_x : (forceU s).cpu.x = s.cpu.x := rfl
@[simp] theorem forceU_cpu_y : (forceU s).cpu.y = s.cpu.y := rfl
@[simp] theorem forceU_cpu_sp : (forceU s).cpu.sp = s.cpu.sp := rfl
@[simp] theorem forceU_cpu_pc : (forceU s).cpu.pc = s.cpu.pc := rfl
@[simp] theorem forceU_cpu_cyclesRemaining : (forceU s).cpu.cyclesRemaining = s.cpu.cyclesRemaining := rfl
@[simp] theorem forceU_cpu_totalCycles : (forceU s).cpu.totalCycles = s.cpu.totalCycles := rfl
@[simp] theorem forceU_cpu_brkUnmasked : (forceU s).cpu.brkUnmasked = s.cpu.brkUnmasked := rfl
@[simp] theorem forceU_cpu_p : (forceU s).cpu.p = setFlag .u true s.cpu.p := rfl
@[simp] theorem forceU_ram : (forceU s).ram = s.ram := rfl
@[simp] theorem forceU_ppu : (forceU s).ppu = s.ppu := rfl
@[simp] theorem forceU_apu : (forceU s).apu = s.apu := rfl
@[simp] theorem forceU_cart : (forceU s).cart = s.cart := rfl
@[simp] theorem forceU_pads : (forceU s).pads = s.pads := rfl
@[simp] theorem forceU_dma : (forceU s).dma = s.dma := rfl
@[simp] theorem forceU_dmcStall : (forceU s).dmcStall = s.dmcStall := rfl
@[simp] theorem forceU_masterCount : (forceU s).masterCount = s.masterCount := rfl
@[simp] theorem forceU_cpuTickCount : (forceU s).cpuTickCount = s.cpuTickCount := rfl
@[simp] theorem forceU_romLoaded : (forceU s).romLoaded = s.romLoaded := rfl
@[simp] theorem forceU_config : (forceU s).config = s.config := rfl
@[simp] theorem complete_cpu_a : (complete n s).cpu.a = s.cpu.a := rfl
@[simp] theorem complete_cpu_x : (complete n s).cpu.x = s.cpu.x := rfl
@[simp] theorem complete_cpu_y : (complete n s).cpu.y = s.cpu.y := rfl
@[simp] theorem complete_cpu_sp : (complete n s).cpu.sp = s.cpu.sp := rfl
@[simp] theorem complete_cpu_pc : (complete n s).cpu.pc = s.cpu.pc := rfl
@[simp] theorem complete_cpu_p : (complete n s).cpu.p = setFlag .u true s.cpu.p := rfl
@[simp] theorem complete_cpu_totalCycles : (complete n s).cpu.totalCycles = s.cpu.totalCycles + n := rfl
@[simp] theorem complete_cpu_cyclesRemaining :
    (complete n s).cpu.cyclesRemaining = remainingAfter s.config.tickModel n := rfl
@[simp] theorem complete_cpu_brkUnmasked : (complete n s).cpu.brkUnmasked = s.cpu.brkUnmasked := rfl
@[simp] theorem complete_ram : (complete n s).ram = s.ram := rfl
@[simp] theorem complete_ppu : (complete n s).ppu = s.ppu := rfl
@[simp] theorem complete_apu : (complete n s).apu = s.apu := rfl
@[simp] theorem complete_cart : (complete n s).cart = s.cart := rfl
@[simp] theorem complete_pads : (complete n s).pads = s.pads := rfl
@[simp] theorem complete_dma : (complete n s).dma = s.dma := rfl
@[simp] theorem complete_dmcStall : (complete n s).dmcStall = s.dmcStall := rfl
@[simp] theorem complete_masterCount : (complete n s).masterCount = s.masterCount := rfl
@[simp] theorem complete_cpuTickCount : (complete n s).cpuTickCount = s.cpuTickCount := rfl
@[simp] theorem complete_romLoaded : (complete n s).romLoaded = s.romLoaded := rfl
@[simp] theorem complete_config : (complete n s).config = s.config := rfl

/-! `decrementCycles`, `endTick` -/

@[simp] theorem decrementCycles_ram : (decrementCycles s).ram = s.ram := rfl
@[simp] theorem decrementCycles_ppu : (decrementCycles s).ppu = s.ppu := rfl
@[simp] theorem decrementCycles_apu : (decrementCycles s).apu = s.apu := rfl
@[simp] theorem decrementCycles_cart : (decrementCycles s).cart = s.cart := rfl
@[simp] theorem decrementCycles_pads : (decrementCycles s).pads = s.pads := rfl
@[simp] theorem decrementCycles_dma : (decrementCycles s).dma = s.dma := rfl
@[simp] theorem decrementCycles_dmcStall : (decrementCycles s).dmcStall = s.dmcStall := rfl
@[simp] theorem decrementCycles_masterCount : (decrementCycles s).masterCount = s.masterCount := rfl
@[simp] theorem decrementCycles_cpuTickCount : (decrementCycles s).cpuTickCount = s.cpuTickCount := rfl
@[simp] theorem decrementCycles_romLoaded : (decrementCycles s).romLoaded = s.romLoaded := rfl
@[simp] theorem decrementCycles_config : (decrementCycles s).config = s.config := rfl
@[simp] theorem decrementCycles_cpu_p : (decrementCycles s).cpu.p = s.cpu.p := rfl
@[simp] theorem endTick_cpu : (endTick s).cpu = s.cpu := rfl
@[simp] theorem endTick_ram : (endTick s).ram = s.ram := rfl
@[simp] theorem endTick_ppu : (endTick s).ppu = s.ppu := rfl
@[simp] theorem endTick_apu : (endTick s).apu = s.apu := rfl
@[simp] theorem endTick_cart : (endTick s).cart = s.cart := rfl
@[simp] theorem endTick_pads : (endTick s).pads = s.pads := rfl
@[simp] theorem endTick_dma : (endTick s).dma = s.dma := rfl
@[simp] theorem endTick_dmcStall : (endTick s).dmcStall = s.dmcStall := rfl
@[simp] theorem endTick_masterCount : (endTick s).masterCount = s.masterCount + 1 := rfl
@[simp] theorem endTick_cpuTickCount : (endTick s).cpuTickCount = s.cpuTickCount := rfl
@[simp] theorem endTick_romLoaded : (endTick s).romLoaded = s.romLoaded := rfl
@[simp] theorem endTick_config : (endTick s).config = s.config := rfl

/-! a flag of the CPU after an update that keeps P -/

@[simp] theorem setPc_cpu_flag : (setPc a s).cpu.flag f = s.cpu.flag f := rfl
@[simp] theorem setSp_cpu_flag : (setSp b s).cpu.flag f = s.cpu.flag f := rfl
@[simp] theorem setP_cpu_flag : (setP b s).cpu.flag f = getFlag f b := rfl

end Sys2Proof.Machine
end

