-- ==== Sys2Proof/Laws/Bus.lean ====
section
/-! SUPPORT. Sys2Proof/Laws/Bus.lean: what one CPU bus read or write can do: its frame, the addresses whose reads are quiet, and the bytes of RAM and PRG RAM after a write. -/

namespace Sys2Proof.Machine

/-! Reads -/

/-- R92: everything a bus read can return and do, by the range its address is in. -/
inductive ReadCase (a : Word) (s : State) : Byte × State → Prop
  | ram (h : InRam a) : ReadCase a s (s.ram.read (a.toNat % 0x800), s)
  | ppu (h : 0x2000 ≤ a.toNat) (h2 : a.toNat < 0x4000) :
    ReadCase a s
      ((ppuRegRead (a.toNat % 8) s.cart s.ppu).1, { s with ppu := (ppuRegRead (a.toNat % 8) s.cart s.ppu).2 })
  | zero (h : 0x4000 ≤ a.toNat) (h2 : a.toNat < 0x4020) (h3 : a.toNat < 0x4015 ∨ 0x4018 ≤ a.toNat) : ReadCase a s (0, s)
  | status (h : a.toNat = 0x4015) : ReadCase a s (apuStatusByte s.apu, { s with apu := clearFrameIrq s.apu })
  | pad1 (h : a.toNat = 0x4016) :
    ReadCase a s (padByte s.pads.shift1, { s with pads := { s.pads with shift1 := s.pads.shift1 <<< 1 } })
  | pad2 (h : a.toNat = 0x4017) :
    ReadCase a s (padByte s.pads.shift2, { s with pads := { s.pads with shift2 := s.pads.shift2 <<< 1 } })
  | cart (h : 0x4020 ≤ a.toNat) (h2 : ¬ InPrgRam a) : ReadCase a s (cartRead s.cart a, s)
  | prgRam (h : InPrgRam a) (k : Nat) (hk : 0x6000 + k = a.toNat) : ReadCase a s (s.cart.prgRam.read k, s)

/-- R92: a bus read does one of these. -/
theorem busRead_cases (a : Word) (s : State) : ReadCase a s (busRead a s) := by
  unfold busRead
  simp only
  by_cases h0 : a.toNat < 0x2000
  · rw [if_pos h0]; exact .ram h0
  rw [if_neg h0]
  by_cases h1 : a.toNat < 0x4000
  · rw [if_pos h1]; exact .ppu (by omega) h1
  rw [if_neg h1]
  by_cases h2 : a.toNat < 0x4015
  · rw [if_pos h2]; exact .zero (by omega) (by omega) (by omega)
  rw [if_neg h2]
  by_cases h3 : a.toNat = 0x4015
  · rw [if_pos h3]; exact .status h3
  rw [if_neg h3]
  by_cases h4 : a.toNat = 0x4016
  · rw [if_pos h4]; exact .pad1 h4
  rw [if_neg h4]
  by_cases h5 : a.toNat = 0x4017
  · rw [if_pos h5]; exact .pad2 h5
  rw [if_neg h5]
  by_cases h6 : a.toNat < 0x4020
  · rw [if_pos h6]; exact .zero (by omega) (by omega) (by omega)
  rw [if_neg h6]
  by_cases h7 : a.toNat < 0x6000
  · rw [if_pos h7]; exact .cart (by omega) (by unfold InPrgRam; omega)
  rw [if_neg h7]
  by_cases h8 : a.toNat < 0x8000
  · rw [if_pos h8]; exact .prgRam ⟨by omega, h8⟩ _ (by omega)
  rw [if_neg h8]
  exact .cart (by omega) (by unfold InPrgRam; omega)

/-- Each case of a read returns what the bus reads. -/
theorem ReadCase.eq {a : Word} {s : State} {r : Byte × State} (h : ReadCase a s r) : busRead a s = r := by
  have k := busRead_cases a s
  generalize busRead a s = q at k
  cases h <;> cases k <;> (try unfold InRam at *) <;> (try unfold InPrgRam at *) <;>
    first
    | omega
    | rfl
    | (congr 2; omega)

/-- R90: a read changes no CPU register. -/
@[simp] theorem busRead_cpu (a : Word) (s : State) : (busRead a s).2.cpu = s.cpu := by
  have h := busRead_cases a s
  generalize busRead a s = q at h
  cases h <;> rfl

/-- R90: what a PPU register read can change. -/
theorem ppuRegRead_frame (k : Nat) (c : Cartridge) (p : Ppu) :
    (ppuRegRead k c p).2 =
      { p with
        status := (ppuRegRead k c p).2.status, w := (ppuRegRead k c p).2.w
        dataBuffer := (ppuRegRead k c p).2.dataBuffer, v := (ppuRegRead k c p).2.v } := by
  unfold ppuRegRead
  by_cases h2 : k = 2
  · rw [if_pos h2]; rfl
  rw [if_neg h2]
  by_cases h4 : k = 4
  · rw [if_pos h4]
  rw [if_neg h4]
  by_cases h7 : k = 7
  · rw [if_pos h7]
    unfold readData
    simp only
    split <;> rfl
  · rw [if_neg h7]

/-- R90: a read changes nothing but the side effects the rule lists. -/
theorem busRead_effects (a : Word) (s : State) : ReadEffectsOnly s (busRead a s).2 := by
  have h := busRead_cases a s
  generalize busRead a s = q at h
  cases h
  case ppu => exact ⟨rfl, rfl, rfl, rfl, rfl, rfl, rfl, rfl, ppuRegRead_frame _ _ _, rfl, rfl⟩
  all_goals exact ⟨rfl, rfl, rfl, rfl, rfl, rfl, rfl, rfl, rfl, rfl, rfl⟩

/-- R90: a PPU register other than $2002 and $2007 is quiet. -/
theorem ppuRegRead_quiet (k : Nat) (c : Cartridge) (p : Ppu) (h2 : k ≠ 2) (h7 : k ≠ 7) : (ppuRegRead k c p).2 = p := by
  unfold ppuRegRead
  rw [if_neg h2, if_neg h7]
  split <;> rfl

/-- R90: a read of any other address changes nothing. -/
theorem busRead_quiet (a : Word) (s : State) (hq : ¬ ReadHasSideEffect a) : (busRead a s).2 = s := by
  unfold ReadHasSideEffect at hq
  have h := busRead_cases a s
  generalize busRead a s = q at h
  cases h
  case ppu => simp only [ppuRegRead_quiet (a.toNat % 8) s.cart s.ppu (by omega) (by omega)]
  case status => omega
  case pad1 => omega
  case pad2 => omega
  all_goals rfl

/-- R80, R92: RAM is quiet. -/
theorem quiet_of_inRam {a : Word} (h : InRam a) : ¬ ReadHasSideEffect a := by
  unfold InRam at h; unfold ReadHasSideEffect; omega

/-- R80, R92: PRG RAM is quiet. -/
theorem quiet_of_inPrgRam {a : Word} (h : InPrgRam a) : ¬ ReadHasSideEffect a := by
  unfold InPrgRam at h; unfold ReadHasSideEffect; omega

/-- R90: the mapper's space is quiet. -/
theorem quiet_of_ge {a : Word} (h : 0x4018 ≤ a.toNat) : ¬ ReadHasSideEffect a := by
  unfold ReadHasSideEffect; omega

theorem busRead_ram {a : Word} (s : State) (h : InRam a) : busRead a s = (s.ram.read (a.toNat % 0x800), s) :=
  (ReadCase.ram h).eq

theorem readsAs_ram {a : Word} (s : State) (h : InRam a) : readsAs s a = s.ram.read (a.toNat % 0x800) := by
  rw [readsAs, busRead_ram s h]

theorem readsAs_prgRam {a : Word} (s : State) (h : InPrgRam a) : readsAs s a = s.cart.prgRam.read (a.toNat - 0x6000) := by
  unfold readsAs
  rw [(ReadCase.prgRam (s := s) h (a.toNat - 0x6000) (by unfold InPrgRam at h; omega)).eq]

/-- What a read returns depends on the RAM, the PPU, the APU, the cartridge and the controllers alone. -/
theorem readsAs_congr {s t : State} (h : SameOutsideCpu s t) (a : Word) : readsAs t a = readsAs s a := by
  obtain ⟨h1, h2, h3, h4, h5, -⟩ := h
  unfold readsAs
  have k := busRead_cases a s
  generalize busRead a s = q at k
  cases k
  case ram h => rw [(ReadCase.ram (s := t) h).eq, h1]
  case ppu h h' => rw [(ReadCase.ppu (s := t) h h').eq, h2, h4]
  case zero h h' h'' => rw [(ReadCase.zero (s := t) h h' h'').eq]
  case status h => rw [(ReadCase.status (s := t) h).eq, h3]
  case pad1 h => rw [(ReadCase.pad1 (s := t) h).eq, h5]
  case pad2 h => rw [(ReadCase.pad2 (s := t) h).eq, h5]
  case cart h h' => rw [(ReadCase.cart (s := t) h h').eq, h4]
  case prgRam h k hk => rw [(ReadCase.prgRam (s := t) h k hk).eq, h4]

theorem SameOutsideCpu.refl (s : State) : SameOutsideCpu s s := ⟨rfl, rfl, rfl, rfl, rfl, rfl, rfl, rfl, rfl, rfl, rfl⟩

theorem SameOutsideCpu.trans {s t u : State} (h : SameOutsideCpu s t) (k : SameOutsideCpu t u) : SameOutsideCpu s u := by
  obtain ⟨h1, h2, h3, h4, h5, h6, h7, h8, h9, h10, h11⟩ := h
  obtain ⟨k1, k2, k3, k4, k5, k6, k7, k8, k9, k10, k11⟩ := k
  exact ⟨k1.trans h1, k2.trans h2, k3.trans h3, k4.trans h4, k5.trans h5, k6.trans h6, k7.trans h7, k8.trans h8, k9.trans h9,
    k10.trans h10, k11.trans h11⟩

theorem SameOutsideCpu.symm {s t : State} (h : SameOutsideCpu s t) : SameOutsideCpu t s := by
  obtain ⟨h1, h2, h3, h4, h5, h6, h7, h8, h9, h10, h11⟩ := h
  exact ⟨h1.symm, h2.symm, h3.symm, h4.symm, h5.symm, h6.symm, h7.symm, h8.symm, h9.symm, h10.symm, h11.symm⟩

/-- An equal System but for the CPU is one with the CPU replaced. -/
theorem SameOutsideCpu.eq_setCpu {s t : State} (h : SameOutsideCpu s t) : t = { s with cpu := t.cpu } := by
  obtain ⟨h1, h2, h3, h4, h5, h6, h7, h8, h9, h10, h11⟩ := h
  cases s; cases t; simp_all

@[simp] theorem sameOutsideCpu_setCpu (r : Cpu) (s : State) : SameOutsideCpu s (setCpu r s) :=
  ⟨rfl, rfl, rfl, rfl, rfl, rfl, rfl, rfl, rfl, rfl, rfl⟩
@[simp] theorem sameOutsideCpu_setPc (a : Word) (s : State) : SameOutsideCpu s (setPc a s) :=
  ⟨rfl, rfl, rfl, rfl, rfl, rfl, rfl, rfl, rfl, rfl, rfl⟩
@[simp] theorem sameOutsideCpu_setSp (b : Byte) (s : State) : SameOutsideCpu s (setSp b s) :=
  ⟨rfl, rfl, rfl, rfl, rfl, rfl, rfl, rfl, rfl, rfl, rfl⟩
@[simp] theorem sameOutsideCpu_setP (b : Byte) (s : State) : SameOutsideCpu s (setP b s) :=
  ⟨rfl, rfl, rfl, rfl, rfl, rfl, rfl, rfl, rfl, rfl, rfl⟩
@[simp] theorem sameOutsideCpu_forceU (s : State) : SameOutsideCpu s (forceU s) :=
  ⟨rfl, rfl, rfl, rfl, rfl, rfl, rfl, rfl, rfl, rfl, rfl⟩
@[simp] theorem sameOutsideCpu_beginInstruction (s : State) : SameOutsideCpu s (beginInstruction s) :=
  ⟨rfl, rfl, rfl, rfl, rfl, rfl, rfl, rfl, rfl, rfl, rfl⟩
@[simp] theorem sameOutsideCpu_setBrkUnmasked (x : Bool) (s : State) : SameOutsideCpu s (setBrkUnmasked x s) :=
  ⟨rfl, rfl, rfl, rfl, rfl, rfl, rfl, rfl, rfl, rfl, rfl⟩
@[simp] theorem sameOutsideCpu_complete (n : Nat) (s : State) : SameOutsideCpu s (complete n s) :=
  ⟨rfl, rfl, rfl, rfl, rfl, rfl, rfl, rfl, rfl, rfl, rfl⟩

theorem nothingStored_of_same {s t : State} (h : SameOutsideCpu s t) : NothingStored s t := ⟨h, readsAs_congr h⟩

theorem ReadEffectsOnly.trans {s t u : State} (h : ReadEffectsOnly s t) (k : ReadEffectsOnly t u) : ReadEffectsOnly s u := by
  obtain ⟨h1, h2, h3, h4, h5, h6, h7, h8, h9, h10, h11⟩ := h
  obtain ⟨k1, k2, k3, k4, k5, k6, k7, k8, k9, k10, k11⟩ := k
  refine ⟨k1.trans h1, k2.trans h2, k3.trans h3, k4.trans h4, k5.trans h5, k6.trans h6, k7.trans h7, k8.trans h8, ?_, ?_, ?_⟩
  · rw [k9, h9]
  · rw [k10, h10]
  · rw [k11, h11]

theorem ReadEffectsOnly.of_same {s t : State} (h : SameOutsideCpu s t) : ReadEffectsOnly s t := by
  obtain ⟨h1, h2, h3, h4, h5, h6, h7, h8, h9, h10, h11⟩ := h
  exact ⟨h1, h4, h6, h7, h8, h9, h10, h11, by rw [h2], by rw [h3], by rw [h5]⟩

/-- The byte a PPU register read returns, $2002 and $2007 apart, depends on the OAM and its address alone. -/
theorem ppuRegRead_fst_quiet (k : Nat) (c : Cartridge) (p q : Ppu) (h2 : k ≠ 2) (h7 : k ≠ 7) (ho : q.oam = p.oam)
    (ha : q.oamAddr = p.oamAddr) : (ppuRegRead k c q).1 = (ppuRegRead k c p).1 := by
  unfold ppuRegRead readOamData
  rw [if_neg h2, if_neg h7, if_neg h2, if_neg h7, ho, ha]
  split <;> rfl

/-- Side effects of reads change no byte whose own read has none. -/
theorem ReadEffectsOnly.readsAs {s t : State} (h : ReadEffectsOnly s t) (a : Word) (ha : ¬ ReadHasSideEffect a) :
    readsAs t a = readsAs s a := by
  obtain ⟨h1, h2, h3, h4, h5, h6, h7, h8, h9, h10, h11⟩ := h
  unfold ReadHasSideEffect at ha
  unfold Machine.readsAs
  have k := busRead_cases a s
  generalize busRead a s = q at k
  cases k
  case ram h => rw [(ReadCase.ram (s := t) h).eq, h1]
  case ppu h h' =>
    rw [(ReadCase.ppu (s := t) h h').eq, h2]
    exact ppuRegRead_fst_quiet _ _ _ _ (by omega) (by omega) (by rw [h9]) (by rw [h9])
  case zero h h' h'' => rw [(ReadCase.zero (s := t) h h' h'').eq]
  case status h => omega
  case pad1 h => omega
  case pad2 h => omega
  case cart h h' => rw [(ReadCase.cart (s := t) h h').eq, h2]
  case prgRam h k hk => rw [(ReadCase.prgRam (s := t) h k hk).eq, h2]

theorem onlyRead_of {s t : State} (h : ReadEffectsOnly s t) : OnlyRead s t := ⟨h, h.readsAs⟩

/-! Writes -/

/-- R92: everything a bus write can do, by the range its address is in. -/
inductive WriteCase (a : Word) (v : Byte) (s : State) : State → Prop
  | ram (h : InRam a) : WriteCase a v s { s with ram := s.ram.write (a.toNat % 0x800) v }
  | ppu (h : 0x2000 ≤ a.toNat) (h2 : a.toNat < 0x4000) :
    WriteCase a v s
      { s with
        ppu := (ppuRegWrite (a.toNat % 8) v s.cart s.ppu).1, cart := (ppuRegWrite (a.toNat % 8) v s.cart s.ppu).2 }
  | apu (h : 0x4000 ≤ a.toNat) (h2 : a.toNat < 0x4014) (k : Nat) (hk : 0x4000 + k = a.toNat) :
    WriteCase a v s { s with apu := writeApuChannel k v s.apu }
  | dma (h : a.toNat = 0x4014) : WriteCase a v s { s with dma := startDma v s.dma }
  | status (h : a.toNat = 0x4015) : WriteCase a v s { s with apu := writeApuStatus v s.apu }
  | strobe (h : a.toNat = 0x4016) : WriteCase a v s { s with pads := writeStrobe v s.pads }
  | frame (h : a.toNat = 0x4017) : WriteCase a v s { s with apu := writeFrameCounter v s.apu }
  | nothing (h : 0x4018 ≤ a.toNat) (h2 : a.toNat < 0x4020) : WriteCase a v s s
  | mapper (h : 0x4020 ≤ a.toNat) (h2 : ¬ InPrgRam a) : WriteCase a v s { s with cart := cpuMapWrite s.cart a v }
  | prgRam (h : InPrgRam a) (k : Nat) (hk : 0x6000 + k = a.toNat) :
    WriteCase a v s { s with cart := { s.cart with prgRam := s.cart.prgRam.write k v } }

/-- R92: a bus write does one of these. -/
theorem busWrite_cases (a : Word) (v : Byte) (s : State) : WriteCase a v s (busWrite a v s) := by
  unfold busWrite
  simp only
  by_cases h0 : a.toNat < 0x2000
  · rw [if_pos h0]; exact .ram h0
  rw [if_neg h0]
  by_cases h1 : a.toNat < 0x4000
  · rw [if_pos h1]; exact .ppu (by omega) h1
  rw [if_neg h1]
  by_cases h2 : a.toNat < 0x4014
  · rw [if_pos h2]; exact .apu (by omega) h2 _ (by omega)
  rw [if_neg h2]
  by_cases h3 : a.toNat = 0x4014
  · rw [if_pos h3]; exact .dma h3
  rw [if_neg h3]
  by_cases h4 : a.toNat = 0x4015
  · rw [if_pos h4]; exact .status h4
  rw [if_neg h4]
  by_cases h5 : a.toNat = 0x4016
  · rw [if_pos h5]; exact .strobe h5
  rw [if_neg h5]
  by_cases h6 : a.toNat = 0x4017
  · rw [if_pos h6]; exact .frame h6
  rw [if_neg h6]
  by_cases h7 : a.toNat < 0x4020
  · rw [if_pos h7]; exact .nothing (by omega) h7
  rw [if_neg h7]
  by_cases h8 : a.toNat < 0x6000
  · rw [if_pos h8]; exact .mapper (by omega) (by unfold InPrgRam; omega)
  rw [if_neg h8]
  by_cases h9 : a.toNat < 0x8000
  · rw [if_pos h9]; exact .prgRam ⟨by omega, h9⟩ _ (by omega)
  rw [if_neg h9]
  exact .mapper (by omega) (by unfold InPrgRam; omega)

/-- Each case of a write leaves what the bus leaves. -/
theorem WriteCase.eq {a : Word} {v : Byte} {s t : State} (h : WriteCase a v s t) : busWrite a v s = t := by
  have k := busWrite_cases a v s
  generalize busWrite a v s = q at k
  cases h <;> cases k <;> (try unfold InRam at *) <;> (try unfold InPrgRam at *) <;>
    first
    | omega
    | rfl
    | (rename_i h1 h2 k1 hk1 h3 h4 k2 hk2; obtain rfl : k1 = k2 := by omega
       rfl)
    | (rename_i h1 k1 hk1 h3 k2 hk2; obtain rfl : k1 = k2 := by omega
       rfl)

/-- A write does the same whatever the CPU's registers are. -/
theorem busWrite_setCpu (a : Word) (v : Byte) (r : Cpu) (s : State) :
    busWrite a v (setCpu r s) = setCpu r (busWrite a v s) := by
  have k := busWrite_cases a v s
  generalize busWrite a v s = q at k
  cases k
  case ram h => exact (WriteCase.ram h).eq
  case ppu h h' => exact (WriteCase.ppu h h').eq
  case apu h h' k hk => exact (WriteCase.apu h h' k hk).eq
  case dma h => exact (WriteCase.dma h).eq
  case status h => exact (WriteCase.status h).eq
  case strobe h => exact (WriteCase.strobe h).eq
  case frame h => exact (WriteCase.frame h).eq
  case nothing h h' => exact (WriteCase.nothing h h').eq
  case mapper h h' => exact (WriteCase.mapper h h').eq
  case prgRam h k hk => exact (WriteCase.prgRam h k hk).eq

/-- R91: a write changes no CPU register and no counter. -/
@[simp] theorem busWrite_cpu (a : Word) (v : Byte) (s : State) : (busWrite a v s).cpu = s.cpu := by
  have h := busWrite_cases a v s
  generalize busWrite a v s = t at h
  cases h <;> rfl

@[simp] theorem busWrite_config (a : Word) (v : Byte) (s : State) : (busWrite a v s).config = s.config := by
  have h := busWrite_cases a v s
  generalize busWrite a v s = t at h
  cases h <;> rfl

@[simp] theorem busWrite_romLoaded (a : Word) (v : Byte) (s : State) : (busWrite a v s).romLoaded = s.romLoaded := by
  have h := busWrite_cases a v s
  generalize busWrite a v s = t at h
  cases h <;> rfl

@[simp] theorem busWrite_masterCount (a : Word) (v : Byte) (s : State) : (busWrite a v s).masterCount = s.masterCount := by
  have h := busWrite_cases a v s
  generalize busWrite a v s = t at h
  cases h <;> rfl

@[simp] theorem busWrite_cpuTickCount (a : Word) (v : Byte) (s : State) : (busWrite a v s).cpuTickCount = s.cpuTickCount := by
  have h := busWrite_cases a v s
  generalize busWrite a v s = t at h
  cases h <;> rfl

@[simp] theorem busWrite_dmcStall (a : Word) (v : Byte) (s : State) : (busWrite a v s).dmcStall = s.dmcStall := by
  have h := busWrite_cases a v s
  generalize busWrite a v s = t at h
  cases h <;> rfl

theorem busWrite_ram {a : Word} (v : Byte) (s : State) (h : InRam a) :
    busWrite a v s = { s with ram := s.ram.write (a.toNat % 0x800) v } := by
  unfold InRam at h
  unfold busWrite
  simp only
  rw [if_pos h]

theorem busWrite_prgRam {a : Word} (v : Byte) (s : State) (h : InPrgRam a) :
    busWrite a v s = { s with cart := { s.cart with prgRam := s.cart.prgRam.write (a.toNat - 0x6000) v } } := by
  have ha : 0x6000 + (a.toNat - 0x6000) = a.toNat := Nat.add_sub_of_le h.1
  exact (WriteCase.prgRam h _ ha).eq

/-- The RAM is changed by writes to its own addresses alone. -/
theorem busWrite_ram_other {a : Word} (v : Byte) (s : State) (ha : ¬ InRam a) : (busWrite a v s).ram = s.ram := by
  have h := busWrite_cases a v s
  generalize busWrite a v s = t at h
  cases h
  case ram h => exact absurd h ha
  all_goals rfl

theorem chrWrite_prgRam (c : Cartridge) (a : PpuAddr) (d : Byte) : (chrWrite c a d).prgRam = c.prgRam := by
  unfold chrWrite
  split
  · split <;> rfl
  · rfl

theorem ppuRegWrite_prgRam (k : Nat) (d : Byte) (c : Cartridge) (p : Ppu) : (ppuRegWrite k d c p).2.prgRam = c.prgRam := by
  unfold ppuRegWrite
  by_cases h : k = 7
  · subst h
    show (ppuWrite c p (vAddr p) d).2.prgRam = c.prgRam
    unfold ppuWrite
    split
    · exact chrWrite_prgRam _ _ _
    · rfl
  · rw [if_neg h]
    repeat' split
    all_goals rfl

/-- PRG RAM is changed by writes to its own addresses alone. -/
theorem busWrite_prgRam_other {a : Word} (v : Byte) (s : State) (ha : ¬ InPrgRam a) :
    (busWrite a v s).cart.prgRam = s.cart.prgRam := by
  have h := busWrite_cases a v s
  generalize busWrite a v s = t at h
  cases h
  case prgRam h k hk => exact absurd h ha
  case ppu => exact ppuRegWrite_prgRam _ _ _ _
  case mapper => exact cpuMapWrite_prgRam _ _ _
  all_goals rfl

/-- R95, R592: NROM and the addresses where nothing is ignore a write. -/
theorem busWrite_ignored {a : Word} (v : Byte) (s : State) (hn : s.cart.variant = .nrom) (ha : 0x4018 ≤ a.toNat)
    (hp : ¬ InPrgRam a) : busWrite a v s = s := by
  have h := busWrite_cases a v s
  generalize busWrite a v s = t at h
  cases h
  case nothing => rfl
  case mapper => rw [cpuMapWrite_nrom _ _ _ hn]
  case prgRam h k hk => exact absurd h hp
  case ram h => unfold InRam at h; omega
  all_goals omega

/-! Memory after a write -/

theorem readsAs_setRam_other {a : Word} (m : Memory) (s : State) (hr : ¬ InRam a) :
    readsAs { s with ram := m } a = readsAs s a := by
  unfold readsAs
  have k := busRead_cases a s
  generalize busRead a s = q at k
  cases k
  case ram h => exact absurd h hr
  case ppu h h' => rw [(ReadCase.ppu (s := { s with ram := m }) h h').eq]
  case zero h h' h'' => rw [(ReadCase.zero (s := { s with ram := m }) h h' h'').eq]
  case status h => rw [(ReadCase.status (s := { s with ram := m }) h).eq]
  case pad1 h => rw [(ReadCase.pad1 (s := { s with ram := m }) h).eq]
  case pad2 h => rw [(ReadCase.pad2 (s := { s with ram := m }) h).eq]
  case cart h h' => rw [(ReadCase.cart (s := { s with ram := m }) h h').eq]
  case prgRam h k hk => rw [(ReadCase.prgRam (s := { s with ram := m }) h k hk).eq]

/-- PRG RAM is not in the PPU's reach. -/
theorem ppuRegRead_setPrgRam (k : Nat) (c : Cartridge) (m : Memory) (p : Ppu) :
    ppuRegRead k { c with prgRam := m } p = ppuRegRead k c p := rfl

theorem cartRead_setPrgRam (c : Cartridge) (m : Memory) (a : Word) : cartRead { c with prgRam := m } a = cartRead c a := rfl

theorem readsAs_setPrgRam_other {a : Word} (m : Memory) (s : State) (hr : ¬ InPrgRam a) :
    readsAs { s with cart := { s.cart with prgRam := m } } a = readsAs s a := by
  unfold readsAs
  have k := busRead_cases a s
  generalize busRead a s = q at k
  cases k
  case ram h => rw [(ReadCase.ram (s := { s with cart := { s.cart with prgRam := m } }) h).eq]
  case ppu h h' =>
    rw [(ReadCase.ppu (s := { s with cart := { s.cart with prgRam := m } }) h h').eq]
    simp only [ppuRegRead_setPrgRam]
  case zero h h' h'' => rw [(ReadCase.zero (s := { s with cart := { s.cart with prgRam := m } }) h h' h'').eq]
  case status h => rw [(ReadCase.status (s := { s with cart := { s.cart with prgRam := m } }) h).eq]
  case pad1 h => rw [(ReadCase.pad1 (s := { s with cart := { s.cart with prgRam := m } }) h).eq]
  case pad2 h => rw [(ReadCase.pad2 (s := { s with cart := { s.cart with prgRam := m } }) h).eq]
  case cart h h' =>
    rw [(ReadCase.cart (s := { s with cart := { s.cart with prgRam := m } }) h h').eq]
    simp only [cartRead_setPrgRam]
  case prgRam h k hk => exact absurd h hr

end Sys2Proof.Machine
end

