-- ==== Sys2Proof/Laws/Exec.lean ====
section
/-! SUPPORT. Sys2Proof/Laws/Exec.lean: what an instruction can do to the System, said once: every instruction answers a next state, and reaches it by CPU bus reads, CPU bus writes and changes of the CPU's registers alone. -/

namespace Sys2Proof.Machine

/-- A property of the System that no bus read, no bus write and no change of the CPU's registers can break. -/
structure BusInvariant (P : State → Prop) : Prop where
  read : ∀ a s, P s → P (busRead a s).2
  write : ∀ a v s, P s → P (busWrite a v s)
  cpu : ∀ r s, P s → P (setCpu r s)

namespace BusInvariant

variable {P : State → Prop} (hP : BusInvariant P) {s : State}
include hP

theorem complete (n : Nat) (h : P s) : P (complete n s) := hP.cpu _ s h
theorem forceU (h : P s) : P (forceU s) := hP.cpu _ s h
theorem setBrkUnmasked (x : Bool) (h : P s) : P (setBrkUnmasked x s) := hP.cpu _ s h
theorem beginInstruction (h : P s) : P (beginInstruction s) := hP.cpu _ s h
theorem setPc (a : Word) (h : P s) : P (setPc a s) := hP.cpu _ s h
theorem setSp (b : Byte) (h : P s) : P (setSp b s) := hP.cpu _ s h
theorem setP (b : Byte) (h : P s) : P (setP b s) := hP.cpu _ s h
theorem push (v : Byte) (h : P s) : P (push v s) := hP.setSp _ (hP.write _ _ _ h)
theorem pull (h : P s) : P (pull s).2 := hP.read _ _ (hP.setSp _ h)
theorem readWord (a : Word) (h : P s) : P (readWord a s).2 := hP.read _ _ (hP.read _ _ h)
theorem readWordZP (p : Byte) (h : P s) : P (readWordZP p s).2 := hP.read _ _ (hP.read _ _ h)
theorem readWordJmpInd (a : Word) (h : P s) : P (readWordJmpInd a s).2 := hP.read _ _ (hP.read _ _ h)

theorem effective (m : MemMode) (h : P s) : P (effective m s).state := by
  cases m
  case izx b => exact hP.readWordZP _ h
  case izy b => exact hP.readWordZP _ h
  all_goals exact h

theorem readMem (m : MemMode) (h : P s) : P (readMem m s).state := hP.read _ _ (hP.effective m h)

theorem readOperand (o : ReadOperand) (h : P s) : P (readOperand o s).state := by
  cases o
  · exact h
  · exact hP.readMem _ h

theorem store (m : MemMode) (v : Byte) (h : P s) : P (store m v s) := hP.write _ _ _ (hP.effective m h)

theorem modifyMem (m : MemMode) (f : Byte → Cpu → RmwResult) (h : P s) : P (modifyMem m f s) :=
  hP.write _ _ _ (hP.cpu _ _ (hP.read _ _ (hP.effective m h)))

theorem modifyOperand (o : ShiftOperand) (f : Byte → Cpu → RmwResult) (h : P s) : P (modifyOperand o f s) := by
  cases o
  · exact hP.complete _ (hP.cpu _ _ h)
  · exact hP.complete _ (hP.modifyMem _ f h)

theorem branch (c : Bool) (off : Byte) (h : P s) : P (branch c off s) := by
  unfold Machine.branch
  cases c
  · exact hP.complete _ h
  · exact hP.complete _ (hP.setPc _ h)

theorem paceEntry (n : Option Nat) (h : P s) : P (paceEntry n s) := by
  cases n
  · exact h
  · exact hP.cpu _ _ h

theorem enterInterrupt (vector : Word) (b : Bool) (n : Option Nat) (h : P s) : P (enterInterrupt vector b n s) :=
  hP.paceEntry n (hP.setPc _ (hP.readWord _ (hP.setP _ (hP.push _ (hP.push _ (hP.push _ h))))))

theorem returnFromInterrupt (h : P s) : P (returnFromInterrupt s) :=
  hP.setPc _ (hP.pull (hP.pull (hP.setP _ (hP.pull h))))

end BusInvariant

/-- Every instruction answers a next state, and a bus invariant holds there. -/
theorem exec_keeps {P : State → Prop} (hP : BusInvariant P) (i : Instr) (s : State) (h : P s) :
    ∃ t, exec i s = .next t ∧ P t := by
  cases i
  case lda o => exact ⟨_, rfl, hP.complete _ (hP.cpu _ _ (hP.readOperand o h))⟩
  case ldx o => exact ⟨_, rfl, hP.complete _ (hP.cpu _ _ (hP.readOperand o h))⟩
  case ldy o => exact ⟨_, rfl, hP.complete _ (hP.cpu _ _ (hP.readOperand o h))⟩
  case adc o => exact ⟨_, rfl, hP.complete _ (hP.cpu _ _ (hP.readOperand o h))⟩
  case sbc o => exact ⟨_, rfl, hP.complete _ (hP.cpu _ _ (hP.readOperand o h))⟩
  case and o => exact ⟨_, rfl, hP.complete _ (hP.cpu _ _ (hP.readOperand o h))⟩
  case ora o => exact ⟨_, rfl, hP.complete _ (hP.cpu _ _ (hP.readOperand o h))⟩
  case eor o => exact ⟨_, rfl, hP.complete _ (hP.cpu _ _ (hP.readOperand o h))⟩
  case cmp o => exact ⟨_, rfl, hP.complete _ (hP.cpu _ _ (hP.readOperand o h))⟩
  case cpx o => exact ⟨_, rfl, hP.complete _ (hP.cpu _ _ (hP.readOperand o h))⟩
  case cpy o => exact ⟨_, rfl, hP.complete _ (hP.cpu _ _ (hP.readOperand o h))⟩
  case bit m => exact ⟨_, rfl, hP.complete _ (hP.cpu _ _ (hP.readMem m h))⟩
  case sta m => exact ⟨_, rfl, hP.complete _ (hP.store m _ h)⟩
  case stx m => exact ⟨_, rfl, hP.complete _ (hP.store m _ h)⟩
  case sty m => exact ⟨_, rfl, hP.complete _ (hP.store m _ h)⟩
  case inc m => exact ⟨_, rfl, hP.complete _ (hP.modifyMem m _ h)⟩
  case dec m => exact ⟨_, rfl, hP.complete _ (hP.modifyMem m _ h)⟩
  case asl o => exact ⟨_, rfl, hP.modifyOperand o _ h⟩
  case lsr o => exact ⟨_, rfl, hP.modifyOperand o _ h⟩
  case rol o => exact ⟨_, rfl, hP.modifyOperand o _ h⟩
  case ror o => exact ⟨_, rfl, hP.modifyOperand o _ h⟩
  case pha => exact ⟨_, rfl, hP.complete _ (hP.push _ h)⟩
  case php => exact ⟨_, rfl, hP.complete _ (hP.push _ h)⟩
  case pla => exact ⟨_, rfl, hP.complete _ (hP.cpu _ _ (hP.pull h))⟩
  case plp => exact ⟨_, rfl, hP.complete _ (hP.setP _ (hP.pull h))⟩
  case jmp o =>
    cases o
    · exact ⟨_, rfl, hP.complete _ (hP.setPc _ h)⟩
    · exact ⟨_, rfl, hP.complete _ (hP.setPc _ (hP.readWordJmpInd _ h))⟩
  case jsr w => exact ⟨_, rfl, hP.complete _ (hP.setPc _ (hP.push _ (hP.push _ h)))⟩
  case rts => exact ⟨_, rfl, hP.complete _ (hP.setPc _ (hP.pull (hP.pull h)))⟩
  case brk => exact ⟨_, rfl, hP.complete _ (hP.setBrkUnmasked _ (hP.enterInterrupt _ _ _ (hP.setPc _ h)))⟩
  case rti => exact ⟨_, rfl, hP.complete _ (hP.returnFromInterrupt h)⟩
  case nop => exact ⟨_, rfl, hP.complete _ h⟩
  case nopIllegal b => exact ⟨_, rfl, hP.complete _ h⟩
  case txs => exact ⟨_, rfl, hP.complete _ (hP.setSp _ h)⟩
  case bcc off => exact ⟨_, rfl, hP.branch _ off h⟩
  case bcs off => exact ⟨_, rfl, hP.branch _ off h⟩
  case beq off => exact ⟨_, rfl, hP.branch _ off h⟩
  case bmi off => exact ⟨_, rfl, hP.branch _ off h⟩
  case bne off => exact ⟨_, rfl, hP.branch _ off h⟩
  case bpl off => exact ⟨_, rfl, hP.branch _ off h⟩
  case bvc off => exact ⟨_, rfl, hP.branch _ off h⟩
  case bvs off => exact ⟨_, rfl, hP.branch _ off h⟩
  all_goals exact ⟨_, rfl, hP.complete _ (hP.cpu _ _ h)⟩

end Sys2Proof.Machine
end

