-- ==== Sys2Proof/Laws/Flags.lean ====
section
/-! SUPPORT. Sys2Proof/Laws/Flags.lean: one lemma for each flag computation of Sys2Proof/Machine/Flags.lean, saying what it makes of the registers and of every flag. -/

namespace Sys2Proof.Machine

theorem bitNat_le (b : Bool) : bitNat b ≤ 1 := by cases b <;> decide

/-- Bit 7 as a comparison. -/
theorem getLsbD_seven (v : Byte) : v.getLsbD 7 = decide (128 ≤ v.toNat) := by
  have h : v.getLsbD 7 = v.msb := by simp [BitVec.msb_eq_getLsbD_last]
  rw [h, BitVec.msb_eq_decide]

/-- R232: V is the overflow of the signed sum. -/
theorem overflow_eq (a b : Byte) (c : Nat) (hc : c ≤ 1) :
    overflow a b (BitVec.ofNat 8 (a.toNat + b.toNat + c))
      = decide (a.toInt + b.toInt + c < -128 ∨ 127 < a.toInt + b.toInt + c) := by
  have ha := a.isLt
  have hb := b.isLt
  have hi : ∀ x : Byte, x.toInt = if 128 ≤ x.toNat then (x.toNat : Int) - 256 else x.toNat := by
    intro x
    rw [BitVec.toInt_eq_toNat_cond]
    split_ifs <;> first | rfl | omega
  unfold overflow bitAt
  simp only [BitVec.getLsbD_and, BitVec.getLsbD_not, BitVec.getLsbD_xor]
  simp only [getLsbD_seven, BitVec.toNat_ofNat]
  rw [hi a, hi b]
  rw [Bool.eq_iff_iff]
  by_cases h1 : 128 ≤ a.toNat <;> by_cases h2 : 128 ≤ b.toNat <;>
    by_cases h3 : 128 ≤ (a.toNat + b.toNat + c) % 2 ^ 8 <;>
    simp only [h1, h2, h3, if_true, if_false, decide_true, decide_false, Bool.xor_true, Bool.xor_false, Bool.not_true,
      Bool.not_false, Bool.and_true, Bool.and_false, decide_eq_true_eq, reduceCtorEq,
      Nat.reduceLT, false_iff, true_iff] <;> omega

/-- R230, R231: the registers after an addition. -/
@[simp] theorem addWithCarry_a (m : Byte) (r : Cpu) :
    (addWithCarry m r).a = BitVec.ofNat 8 (r.a.toNat + m.toNat + bitNat (r.flag .c)) := rfl
@[simp] theorem addWithCarry_x (m : Byte) (r : Cpu) : (addWithCarry m r).x = r.x := rfl
@[simp] theorem addWithCarry_y (m : Byte) (r : Cpu) : (addWithCarry m r).y = r.y := rfl
@[simp] theorem addWithCarry_sp (m : Byte) (r : Cpu) : (addWithCarry m r).sp = r.sp := rfl
@[simp] theorem addWithCarry_pc (m : Byte) (r : Cpu) : (addWithCarry m r).pc = r.pc := rfl
@[simp] theorem addWithCarry_totalCycles (m : Byte) (r : Cpu) : (addWithCarry m r).totalCycles = r.totalCycles := rfl
@[simp] theorem addWithCarry_brkUnmasked (m : Byte) (r : Cpu) : (addWithCarry m r).brkUnmasked = r.brkUnmasked := rfl

/-- R230, R231: the flags after an addition. -/
theorem addWithCarry_flag (m : Byte) (r : Cpu) (f : Flag) :
    (addWithCarry m r).flag f =
      match f with
      | .z => decide (BitVec.ofNat 8 (r.a.toNat + m.toNat + bitNat (r.flag .c)) = 0)
      | .n => (BitVec.ofNat 8 (r.a.toNat + m.toNat + bitNat (r.flag .c))).msb
      | .c => decide (0xFF < r.a.toNat + m.toNat + bitNat (r.flag .c))
      | .v => overflow r.a m (BitVec.ofNat 8 (r.a.toNat + m.toNat + bitNat (r.flag .c)))
      | f => r.flag f := by
  unfold addWithCarry
  simp only [Cpu.flag_setNZ, Cpu.flag_mk]
  cases f <;> simp [Cpu.flag_eq]

@[simp] theorem compare_a (g m : Byte) (r : Cpu) : (compare g m r).a = r.a := rfl
@[simp] theorem compare_x (g m : Byte) (r : Cpu) : (compare g m r).x = r.x := rfl
@[simp] theorem compare_y (g m : Byte) (r : Cpu) : (compare g m r).y = r.y := rfl
@[simp] theorem compare_sp (g m : Byte) (r : Cpu) : (compare g m r).sp = r.sp := rfl
@[simp] theorem compare_pc (g m : Byte) (r : Cpu) : (compare g m r).pc = r.pc := rfl
@[simp] theorem compare_totalCycles (g m : Byte) (r : Cpu) : (compare g m r).totalCycles = r.totalCycles := rfl
@[simp] theorem compare_brkUnmasked (g m : Byte) (r : Cpu) : (compare g m r).brkUnmasked = r.brkUnmasked := rfl

/-- R237: the flags after a comparison. -/
theorem compare_flag (g m : Byte) (r : Cpu) (f : Flag) :
    (compare g m r).flag f =
      match f with
      | .z => decide (g = m)
      | .n => (g - m).msb
      | .c => decide (m.toNat ≤ g.toNat)
      | f => r.flag f := by
  unfold compare
  simp only [Cpu.flag_setFlag, bitAt_seven]
  cases f <;> simp
  rfl

@[simp] theorem bitTest_a (m : Byte) (r : Cpu) : (bitTest m r).a = r.a := rfl
@[simp] theorem bitTest_x (m : Byte) (r : Cpu) : (bitTest m r).x = r.x := rfl
@[simp] theorem bitTest_y (m : Byte) (r : Cpu) : (bitTest m r).y = r.y := rfl
@[simp] theorem bitTest_sp (m : Byte) (r : Cpu) : (bitTest m r).sp = r.sp := rfl
@[simp] theorem bitTest_pc (m : Byte) (r : Cpu) : (bitTest m r).pc = r.pc := rfl
@[simp] theorem bitTest_totalCycles (m : Byte) (r : Cpu) : (bitTest m r).totalCycles = r.totalCycles := rfl
@[simp] theorem bitTest_brkUnmasked (m : Byte) (r : Cpu) : (bitTest m r).brkUnmasked = r.brkUnmasked := rfl

/-- R236: the flags after BIT. -/
theorem bitTest_flag (m : Byte) (r : Cpu) (f : Flag) :
    (bitTest m r).flag f =
      match f with
      | .z => decide (r.a &&& m = 0)
      | .n => m.getLsbD 7
      | .v => m.getLsbD 6
      | f => r.flag f := by
  unfold bitTest
  simp only [Cpu.flag_setFlag]
  cases f <;> simp [bitAt]
  rfl

/-- The registers other than P an operation of R251 leaves: all. -/
def RmwKeeps (f : Byte → Cpu → RmwResult) : Prop :=
  ∀ v r, (f v r).cpu.a = r.a ∧ (f v r).cpu.x = r.x ∧ (f v r).cpu.y = r.y ∧ (f v r).cpu.sp = r.sp ∧ (f v r).cpu.pc = r.pc
    ∧ (f v r).cpu.totalCycles = r.totalCycles

theorem incByte_keeps : RmwKeeps incByte := fun _ _ => ⟨rfl, rfl, rfl, rfl, rfl, rfl⟩
theorem decByte_keeps : RmwKeeps decByte := fun _ _ => ⟨rfl, rfl, rfl, rfl, rfl, rfl⟩
theorem aslByte_keeps : RmwKeeps aslByte := fun _ _ => ⟨rfl, rfl, rfl, rfl, rfl, rfl⟩
theorem lsrByte_keeps : RmwKeeps lsrByte := fun _ _ => ⟨rfl, rfl, rfl, rfl, rfl, rfl⟩
theorem rolByte_keeps : RmwKeeps rolByte := fun _ _ => ⟨rfl, rfl, rfl, rfl, rfl, rfl⟩
theorem rorByte_keeps : RmwKeeps rorByte := fun _ _ => ⟨rfl, rfl, rfl, rfl, rfl, rfl⟩

/-- R241, R242: N and Z from the result. -/
theorem incByte_flag (v : Byte) (r : Cpu) (f : Flag) :
    (incByte v r).cpu.flag f = if f = .z then decide (v + 1 = 0) else if f = .n then (v + 1).msb else r.flag f :=
  Cpu.flag_setNZ f (v + 1) r
theorem decByte_flag (v : Byte) (r : Cpu) (f : Flag) :
    (decByte v r).cpu.flag f = if f = .z then decide (v - 1 = 0) else if f = .n then (v - 1).msb else r.flag f :=
  Cpu.flag_setNZ f (v - 1) r

/-- R247 to R250: N and Z from the result, C the bit shifted out. -/
theorem aslByte_flag (v : Byte) (r : Cpu) (f : Flag) :
    (aslByte v r).cpu.flag f =
      if f = .z then decide (v <<< 1 = 0) else if f = .n then (v <<< 1).msb else if f = .c then v.getLsbD 7 else r.flag f := by
  simp [aslByte, bitAt]
theorem lsrByte_flag (v : Byte) (r : Cpu) (f : Flag) :
    (lsrByte v r).cpu.flag f =
      if f = .z then decide (v >>> 1 = 0) else if f = .n then (v >>> 1).msb else if f = .c then v.getLsbD 0 else r.flag f := by
  simp [lsrByte, bitAt]

@[simp] theorem incByte_value (v : Byte) (r : Cpu) : (incByte v r).value = v + 1 := rfl
@[simp] theorem decByte_value (v : Byte) (r : Cpu) : (decByte v r).value = v - 1 := rfl
@[simp] theorem aslByte_value (v : Byte) (r : Cpu) : (aslByte v r).value = v <<< 1 := rfl
@[simp] theorem lsrByte_value (v : Byte) (r : Cpu) : (lsrByte v r).value = v >>> 1 := rfl

theorem rolByte_value (v : Byte) (r : Cpu) : (rolByte v r).value = (v <<< 1) ||| (if r.flag .c then 1 else 0) := by
  unfold rolByte
  cases r.flag .c <;> rfl
theorem rorByte_value (v : Byte) (r : Cpu) : (rorByte v r).value = (v >>> 1) ||| (if r.flag .c then 0x80 else 0) := by
  unfold rorByte
  cases r.flag .c <;> rfl

theorem rolByte_flag (v : Byte) (r : Cpu) (f : Flag) :
    (rolByte v r).cpu.flag f =
      if f = .z then decide ((rolByte v r).value = 0) else if f = .n then (rolByte v r).value.msb
      else if f = .c then v.getLsbD 7 else r.flag f := by
  simp [rolByte, bitAt]
theorem rorByte_flag (v : Byte) (r : Cpu) (f : Flag) :
    (rorByte v r).cpu.flag f =
      if f = .z then decide ((rorByte v r).value = 0) else if f = .n then (rorByte v r).value.msb
      else if f = .c then v.getLsbD 0 else r.flag f := by
  simp [rorByte, bitAt]

/-- R143, R251: the accumulator form: A takes the result, the flags are the operation's, everything else stays. -/
theorem modifyAcc_spec (f : Byte → Cpu → RmwResult) (hf : RmwKeeps f) (s : State) :
    (modifyAcc f s).cpu.a = (f s.cpu.a s.cpu).value ∧ (modifyAcc f s).cpu.x = s.cpu.x ∧ (modifyAcc f s).cpu.y = s.cpu.y
      ∧ (modifyAcc f s).cpu.sp = s.cpu.sp ∧ (modifyAcc f s).cpu.pc = s.cpu.pc
      ∧ (modifyAcc f s).cpu.totalCycles = s.cpu.totalCycles
      ∧ ∀ g, (modifyAcc f s).cpu.flag g = (f s.cpu.a s.cpu).cpu.flag g := by
  obtain ⟨-, h2, h3, h4, h5, h6⟩ := hf s.cpu.a s.cpu
  exact ⟨rfl, h2, h3, h4, h5, h6, fun _ => rfl⟩

end Sys2Proof.Machine
end

