-- ==== Sys2Proof/Laws/Ops.lean ====
section
/-! SUPPORT. Sys2Proof/Laws/Ops.lean: one lemma for each shared operation, saying all it does: pointer reads, effective addresses, stores, the stack, taking an interrupt and returning from one. -/

namespace Sys2Proof.Machine

theorem inRam_zext16 (b : Byte) : InRam (zext16 b) := by
  unfold InRam
  rw [zext16_toNat]
  have := b.isLt
  omega

theorem inRam_stackAddr (b : Byte) : InRam (stackAddr b) := by
  unfold InRam
  rw [stackAddr_toNat]
  have := b.isLt
  omega

/-- R84: a zero-page pointer is read from RAM, and the read changes nothing. -/
theorem readWordZP_eq (p : Byte) (s : State) :
    readWordZP p s = (mkWord (s.ram.read (p + 1).toNat) (s.ram.read p.toNat), s) := by
  have h1 := p.isLt
  have h2 := (p + 1).isLt
  unfold readWordZP
  simp only [busRead_ram _ (inRam_zext16 _), zext16_toNat]
  rw [Nat.mod_eq_of_lt (by omega), Nat.mod_eq_of_lt (by omega)]

/-- R145 to R154: finding an effective address changes nothing. -/
@[simp] theorem effective_state (m : MemMode) (s : State) : (effective m s).state = s := by
  cases m <;> first | rfl | simp [effective, readWordZP_eq, indexed]

/-- R83: two reads without side effects give the word and change nothing. -/
theorem readWord_quiet (a : Word) (s : State) (h : ¬ ReadHasSideEffect a) (h1 : ¬ ReadHasSideEffect (a + 1)) :
    readWord a s = (mkWord (readsAs s (a + 1)) (readsAs s a), s) := by
  unfold readWord readsAs
  simp only [busRead_quiet _ _ h, busRead_quiet _ _ h1]

/-- R85, likewise. -/
theorem readWordJmpInd_quiet (a : Word) (s : State) (h : ¬ ReadHasSideEffect a)
    (h1 : ¬ ReadHasSideEffect (mkWord (hiByte a) (loByte a + 1))) :
    readWordJmpInd a s = (mkWord (readsAs s (mkWord (hiByte a) (loByte a + 1))) (readsAs s a), s) := by
  unfold readWordJmpInd readsAs
  simp only [busRead_quiet _ _ h, busRead_quiet _ _ h1]

/-- R156: what an operand's read leaves: the CPU as it was, and no more than the side effects of one read. -/
@[simp] theorem readMem_cpu (m : MemMode) (s : State) : (readMem m s).state.cpu = s.cpu := by
  simp [readMem]

@[simp] theorem readOperand_cpu (o : ReadOperand) (s : State) : (readOperand o s).state.cpu = s.cpu := by
  cases o
  · rfl
  · exact readMem_cpu _ _

theorem readMem_effects (m : MemMode) (s : State) : ReadEffectsOnly s (readMem m s).state := by
  have h := busRead_effects (effective m s).ea s
  unfold readMem
  simp only [effective_state]
  exact h

theorem readOperand_effects (o : ReadOperand) (s : State) : ReadEffectsOnly s (readOperand o s).state := by
  cases o
  · exact ReadEffectsOnly.of_same (SameOutsideCpu.refl s)
  · exact readMem_effects _ _

theorem readMem_quiet (m : MemMode) (s : State) (h : ¬ ReadHasSideEffect (effective m s).ea) : (readMem m s).state = s := by
  unfold readMem
  simp only [effective_state, busRead_quiet _ _ h]

theorem readOperand_quiet (o : ReadOperand) (s : State) (h : OperandQuiet o s) : (readOperand o s).state = s := by
  cases o
  · rfl
  · exact readMem_quiet _ _ h

theorem readMem_value (m : MemMode) (s : State) : (readMem m s).value = readsAs s (effective m s).ea := by
  unfold readMem readsAs
  simp only [effective_state]

@[simp] theorem readOperand_config (o : ReadOperand) (s : State) : (readOperand o s).state.config = s.config :=
  (readOperand_effects o s).2.2.2.2.2.2.2.1

@[simp] theorem busRead_config (a : Word) (s : State) : (busRead a s).2.config = s.config :=
  (busRead_effects a s).2.2.2.2.2.2.2.1

/-- R251: a read-modify-write is one read, the operation, one write, all at the effective address. -/
theorem modifyMem_eq (m : MemMode) (f : Byte → Cpu → RmwResult) (s : State) :
    modifyMem m f s =
      setCpu (f (readsAs s (effective m s).ea) s.cpu).cpu
        (busWrite (effective m s).ea (f (readsAs s (effective m s).ea) s.cpu).value (busRead (effective m s).ea s).2) := by
  rw [← busWrite_setCpu]
  unfold modifyMem readsAs
  simp only [effective_state, busRead_cpu]

/-- R401: the flags an instruction may change, seen after its completion. -/
theorem onlyFlags_complete {fs : List Flag} {s t : State} (n : Nat)
    (h : ∀ f, f ≠ .u → f ∉ fs → t.cpu.flag f = s.cpu.flag f) : OnlyFlags fs s (complete n t) := by
  refine ⟨by simp, fun f hu hf => ?_⟩
  rw [complete_cpu_flag, if_neg hu]
  exact h f hu hf

theorem same_complete {s t : State} (n : Nat) (h : SameOutsideCpu s t) : SameOutsideCpu s (complete n t) :=
  h.trans (sameOutsideCpu_complete n t)

/-- R401: the completion of an instruction of n cycles counts it. -/
theorem paced_complete (n : Nat) {s t : State} (h : t.cpu.totalCycles = s.cpu.totalCycles) (hc : t.config = s.config) :
    Paced n s (complete n t) := by
  refine ⟨?_, ?_, ?_⟩
  · simp [h]
  · intro hm; simp [hc, hm, remainingAfter]
  · intro hm; simp [hc, hm, remainingAfter]

/-- The frame of an instruction that reads its operand and completes. -/
theorem operandFrame_of {o : ReadOperand} {s t : State} (h : SameOutsideCpu (readOperand o s).state t) : OperandFrame o s t := by
  refine ⟨h, onlyRead_of ((readOperand_effects o s).trans (.of_same h)), fun hq => ?_⟩
  rw [readOperand_quiet o s hq] at h
  exact nothingStored_of_same h

/-! Stores -/

/-- Distinct RAM bytes written in a row: each reads back, every other address reads as before. -/
theorem ramStored_of (stored : List (Word × Byte)) {s t : State}
    (hram : t.ram = stored.foldl (fun m c => m.write (c.1.toNat % 0x800) c.2) s.ram) (hwf : s.ram.wf)
    (hin : ∀ c ∈ stored, InRam c.1) (hne : stored.Pairwise (fun c d => ¬ SameRamByte c.1 d.1))
    (hout : SameOutsideCpu { s with ram := t.ram } t) : RamStored stored s t := by
  have key : ∀ (l : List (Word × Byte)) (m : Memory), (∀ c ∈ l, InRam c.1) →
      l.Pairwise (fun c d => ¬ SameRamByte c.1 d.1) → m.wf →
      (∀ c ∈ l, (l.foldl (fun m c => m.write (c.1.toNat % 0x800) c.2) m).read (c.1.toNat % 0x800) = c.2) ∧
      (∀ j, (∀ c ∈ l, c.1.toNat % 0x800 ≠ j) → (l.foldl (fun m c => m.write (c.1.toNat % 0x800) c.2) m).read j = m.read j) := by
    intro l
    induction l with
    | nil => intro m _ _ _; simp
    | cons d l ih =>
      intro m hin hne hm
      obtain ⟨hd, hl⟩ := List.pairwise_cons.mp hne
      obtain ⟨i1, i2⟩ := ih (m.write (d.1.toNat % 0x800) d.2) (fun c hc => hin c (by simp [hc])) hl (Memory.write_wf _ _ _ hm)
      refine ⟨?_, ?_⟩
      · intro c hc
        rcases List.mem_cons.mp hc with rfl | hc
        · rw [List.foldl_cons, i2 _ (fun e he hce => hd e he ⟨hin c (by simp), hin e (by simp [he]), hce.symm⟩)]
          exact Memory.read_write_same _ _ _ hm
        · exact i1 c hc
      · intro j hj
        rw [List.foldl_cons, i2 j (fun c hc => hj c (by simp [hc]))]
        exact Memory.read_write_other _ _ _ _ (fun h => hj d (by simp) h.symm)
  obtain ⟨k1, k2⟩ := key stored s.ram hin hne hwf
  refine ⟨?_, ?_, hout⟩
  · intro c hc
    rw [readsAs_ram t (hin c hc), hram]
    exact k1 c hc
  · intro a ha
    by_cases hr : InRam a
    · rw [readsAs_ram t hr, readsAs_ram s hr, hram]
      exact k2 _ (fun c hc h => ha c hc ⟨hr, hin c hc, h.symm⟩)
    · rw [readsAs_congr hout a]
      exact readsAs_setRam_other t.ram s hr

/-- R203 to R205, R251: what one bus write stores, and nothing else; u is s, or s with the side effects of a read at a. -/
theorem byteStored_of (a : Word) (v : Byte) {u s t : State} (h : SameOutsideCpu (busWrite a v u) t)
    (hu : u = s ∨ u = (busRead a s).2) (hr : s.ram.wf) (hp : s.cart.prgRam.wf) : ByteStored a v u s t := by
  have hq : ¬ ReadHasSideEffect a → u = s := by
    intro q
    rcases hu with h | h
    · exact h
    · rw [h, busRead_quiet a s q]
  have hue : ReadEffectsOnly s u := by
    rcases hu with h | h
    · rw [h]; exact .of_same (.refl s)
    · rw [h]; exact busRead_effects a s
  refine ⟨h, ?_, ?_, ?_, ?_⟩
  · intro ha
    rw [hq (quiet_of_inRam ha), busWrite_ram v s ha] at h
    obtain ⟨h1, h2⟩ := h
    refine ramStored_of [(a, v)] h1 hr (by simp [ha]) (by simp) ?_
    exact ⟨rfl, h2⟩
  · intro ha
    rw [hq (quiet_of_inPrgRam ha), busWrite_prgRam v s ha] at h
    have hc : t.cart = { s.cart with prgRam := s.cart.prgRam.write (a.toNat - 0x6000) v } := h.2.2.2.1
    refine ⟨?_, ?_⟩
    · rw [readsAs_prgRam t ha, hc]
      exact Memory.read_write_same _ _ _ hp
    · intro b hb
      rw [readsAs_congr h b]
      by_cases hbp : InPrgRam b
      · rw [readsAs_prgRam _ hbp, readsAs_prgRam _ hbp]
        refine Memory.read_write_other _ _ _ _ (fun e => hb (BitVec.eq_of_toNat_eq ?_))
        unfold InPrgRam at ha hbp
        omega
      · exact readsAs_setPrgRam_other _ s hbp
  · intro har hap b hb
    rw [readsAs_congr h b]
    rcases hb with hb | hb
    · rw [readsAs_ram _ hb, readsAs_ram _ hb, busWrite_ram_other v u har, hue.1]
    · rw [readsAs_prgRam _ hb, readsAs_prgRam _ hb, busWrite_prgRam_other v u hap, hue.2.1]
  · intro hn ha hap
    rw [hq (quiet_of_ge ha), busWrite_ignored v s hn ha hap] at h
    exact nothingStored_of_same h

/-! The stack -/

/-- R86: a push stores one byte of RAM and moves SP. -/
theorem push_eq (v : Byte) (s : State) :
    push v s = { s with ram := s.ram.write (0x100 + s.cpu.sp.toNat) v, cpu := { s.cpu with sp := s.cpu.sp - 1 } } := by
  have h := s.cpu.sp.isLt
  unfold push
  simp only [busWrite_ram v s (inRam_stackAddr _), stackAddr_toNat]
  rw [Nat.mod_eq_of_lt (by omega)]
  rfl

/-- R87: a pull reads one byte of RAM and moves SP. -/
theorem pull_eq (s : State) : pull s = (s.ram.read (0x100 + (s.cpu.sp + 1).toNat), setSp (s.cpu.sp + 1) s) := by
  have h := (s.cpu.sp + 1).isLt
  unfold pull
  simp only [busRead_ram _ (inRam_stackAddr _), stackAddr_toNat, setSp_cpu_sp, setSp_ram]
  rw [Nat.mod_eq_of_lt (by omega)]

/-- R96: a vector's two addresses are the mapper's, so reading them changes nothing. -/
theorem quiet_vector {v : Word} (h : v = 0xFFFA ∨ v = 0xFFFC ∨ v = 0xFFFE) :
    ¬ ReadHasSideEffect v ∧ ¬ ReadHasSideEffect (v + 1) := by
  rcases h with h | h | h <;> subst h <;> exact ⟨quiet_of_ge (by decide), quiet_of_ge (by decide)⟩

/-- R410: taking an interrupt, in one record: three bytes pushed, I set, PC from the vector. -/
theorem enterInterrupt_eq (v : Word) (b : Bool) (n : Option Nat) (s : State) (hv : v = 0xFFFA ∨ v = 0xFFFC ∨ v = 0xFFFE) :
    enterInterrupt v b n s =
      paceEntry n
        { s with
          ram := ((s.ram.write (0x100 + s.cpu.sp.toNat) (hiByte s.cpu.pc)).write (0x100 + (s.cpu.sp - 1).toNat)
            (loByte s.cpu.pc)).write (0x100 + (s.cpu.sp - 1 - 1).toNat) (pushedStatus s.cpu.p b)
          cpu := { s.cpu with
            sp := s.cpu.sp - 1 - 1 - 1
            p := setFlag .i true s.cpu.p
            pc := mkWord (readsAs s (v + 1)) (readsAs s v) } } := by
  have hq := quiet_vector hv
  have hr : ¬ InRam v ∧ ¬ InRam (v + 1) := by
    rcases hv with h | h | h <;> subst h <;> exact ⟨by unfold InRam; decide, by unfold InRam; decide⟩
  unfold enterInterrupt
  simp only [push_eq]
  rw [readWord_quiet v _ hq.1 hq.2]
  simp only
  have e1 : ∀ (m : Memory) (r : Cpu) (a : Word), ¬ InRam a → readsAs { s with ram := m, cpu := r } a = readsAs s a := by
    intro m r a ha
    rw [← readsAs_setRam_other m s ha]
    exact readsAs_congr (s := { s with ram := m }) (t := { s with ram := m, cpu := r }) ⟨rfl, rfl, rfl, rfl, rfl, rfl, rfl, rfl, rfl, rfl, rfl⟩ a
  unfold setP setPc
  simp only [e1 _ _ _ hr.1, e1 _ _ _ hr.2]

/-- R284: the return from an interrupt, in one record. -/
theorem returnFromInterrupt_eq (s : State) :
    returnFromInterrupt s =
      { s with
        cpu := { s.cpu with
          sp := s.cpu.sp + 1 + 1 + 1
          p := pulledStatus (s.ram.read (0x100 + (s.cpu.sp + 1).toNat))
          pc := mkWord (s.ram.read (0x100 + (s.cpu.sp + 1 + 1 + 1).toNat)) (s.ram.read (0x100 + (s.cpu.sp + 1 + 1).toNat)) } } := by
  unfold returnFromInterrupt
  simp only [pull_eq]
  rfl

/-- Three stack addresses in a row name three bytes. -/
theorem stackAddr_distinct (b : Byte) :
    ¬ SameRamByte (stackAddr b) (stackAddr (b - 1)) ∧ ¬ SameRamByte (stackAddr b) (stackAddr (b - 1 - 1))
      ∧ ¬ SameRamByte (stackAddr (b - 1)) (stackAddr (b - 1 - 1)) := by
  have key : ∀ c d : Byte, c ≠ d → ¬ SameRamByte (stackAddr c) (stackAddr d) := by
    intro c d hne h
    have h3 := h.2.2
    rw [stackAddr_toNat, stackAddr_toNat] at h3
    have := c.isLt
    have := d.isLt
    exact hne (BitVec.eq_of_toNat_eq (by omega))
  exact ⟨key _ _ (by bv_omega), key _ _ (by bv_omega), key _ _ (by bv_omega)⟩

end Sys2Proof.Machine
end

