-- ==== Sys2Proof/Laws/Cycles.lean ====
section
/-! SUPPORT. Sys2Proof/Laws/Cycles.lean: how every instruction ends: in the completion of R401, after 2 to 8 cycles, from a state whose cycle counters nothing has touched and whose P.B is clear if it was. -/

namespace Sys2Proof.Machine

/-- Nothing has touched `total_cycles`, and P.B is clear if it was. -/
def Untimed (r q : Cpu) : Prop := q.totalCycles = r.totalCycles ∧ (r.flag .b = false → q.flag .b = false)

/-- The outcome is the completion of R401 with n cycles. -/
def EndsIn (s : State) (o : Result) : Prop :=
  ∃ n u, o = .next (complete n u) ∧ 2 ≤ n ∧ n ≤ 8 ∧ Untimed s.cpu u.cpu

theorem EndsIn.mk {s : State} {n : Nat} {u : State} (h2 : 2 ≤ n) (h8 : n ≤ 8) (h : Untimed s.cpu u.cpu) :
    EndsIn s (.next (complete n u)) := ⟨n, u, rfl, h2, h8, h⟩

theorem Untimed.refl (r : Cpu) : Untimed r r := ⟨rfl, id⟩

theorem readMem_cycles (m : MemMode) (s : State) : 2 ≤ (readMem m s).cycles ∧ (readMem m s).cycles ≤ 8 := by
  have h := bitNat_le (effective m s).crossed
  have hb : (readMem m s).cycles = readBase m + bitNat (effective m s).crossed := rfl
  have h2 : 2 ≤ readBase m ∧ readBase m ≤ 6 := by cases m <;> exact ⟨by simp [readBase], by simp [readBase]⟩
  omega

theorem readOperand_cycles (o : ReadOperand) (s : State) : 2 ≤ (readOperand o s).cycles ∧ (readOperand o s).cycles ≤ 8 := by
  cases o
  · exact ⟨by simp [readOperand], by simp [readOperand]⟩
  · exact readMem_cycles _ _

theorem storeCycles_range (m : MemMode) : 3 ≤ storeCycles m ∧ storeCycles m ≤ 6 := by
  cases m <;> exact ⟨by simp [storeCycles], by simp [storeCycles]⟩

@[simp] theorem store_cpu (m : MemMode) (v : Byte) (s : State) : (store m v s).cpu = s.cpu := by
  simp [store]

@[simp] theorem modifyMem_cpu (m : MemMode) (f : Byte → Cpu → RmwResult) (s : State) :
    (modifyMem m f s).cpu = (f (readsAs s (effective m s).ea) s.cpu).cpu := by
  rw [modifyMem_eq]; rfl

@[simp] theorem push_cpu (v : Byte) (s : State) : (push v s).cpu = { s.cpu with sp := s.cpu.sp - 1 } := by rw [push_eq]

@[simp] theorem pull_cpu (s : State) : (pull s).2.cpu = { s.cpu with sp := s.cpu.sp + 1 } := by rw [pull_eq]; rfl

/-- An instruction that reads an operand and sets registers. -/
theorem endsIn_operand (o : ReadOperand) (s : State) (r : Cpu) (h : Untimed s.cpu r) :
    EndsIn s (.next (complete (readOperand o s).cycles (setCpu r (readOperand o s).state))) :=
  .mk (readOperand_cycles o s).1 (readOperand_cycles o s).2 h

theorem endsIn_store (m : MemMode) (v : Byte) (s : State) : EndsIn s (.next (complete (storeCycles m) (store m v s))) := by
  have h := storeCycles_range m
  exact .mk (by omega) (by omega) (by rw [store_cpu]; exact .refl _)

/-- A read-modify-write operation leaves P.B and the cycle counters alone. -/
def RmwUntimed (f : Byte → Cpu → RmwResult) : Prop := ∀ v r, Untimed r (f v r).cpu

theorem endsIn_modifyMem (m : MemMode) (f : Byte → Cpu → RmwResult) (hf : RmwUntimed f) (s : State) :
    EndsIn s (.next (complete (rmwCycles m) (modifyMem m f s))) := by
  have h := storeCycles_range m
  unfold rmwCycles
  exact .mk (by omega) (by omega) (by rw [modifyMem_cpu]; exact hf _ _)

theorem endsIn_modifyOperand (o : ShiftOperand) (f : Byte → Cpu → RmwResult) (hf : RmwUntimed f) (s : State) :
    EndsIn s (.next (modifyOperand o f s)) := by
  cases o
  · exact .mk (by decide) (by decide) (by exact hf _ _)
  · exact endsIn_modifyMem _ f hf s

theorem endsIn_branch (c : Bool) (off : Byte) (s : State) : EndsIn s (.next (branch c off s)) := by
  unfold branch
  cases c
  · exact .mk (by decide) (by decide) (.refl _)
  · have h := bitNat_le (crossed s.cpu.pc (branchTarget s.cpu.pc off))
    refine .mk (n := 2 + takenPenalty s.cpu.pc (branchTarget s.cpu.pc off)) ?_ ?_ (.refl _)
    · unfold takenPenalty; omega
    · unfold takenPenalty; omega

theorem untimed_setFlag {r q : Cpu} (f : Flag) (x : Bool) (hf : f ≠ .b) (h : Untimed r q) : Untimed r (q.setFlag f x) :=
  ⟨h.1, fun hb => by rw [Cpu.flag_setFlag, if_neg (Ne.symm hf)]; exact h.2 hb⟩

theorem untimed_setNZ {r q : Cpu} (v : Byte) (h : Untimed r q) : Untimed r (setNZ v q) :=
  untimed_setFlag _ _ (by decide) (untimed_setFlag _ _ (by decide) h)

theorem rmwUntimed_incByte : RmwUntimed incByte := fun _ r => untimed_setNZ _ (.refl r)
theorem rmwUntimed_decByte : RmwUntimed decByte := fun _ r => untimed_setNZ _ (.refl r)
theorem rmwUntimed_aslByte : RmwUntimed aslByte := fun _ r => untimed_setNZ _ (untimed_setFlag _ _ (by decide) (.refl r))
theorem rmwUntimed_lsrByte : RmwUntimed lsrByte := fun _ r => untimed_setNZ _ (untimed_setFlag _ _ (by decide) (.refl r))
theorem rmwUntimed_rolByte : RmwUntimed rolByte := fun _ r => untimed_setNZ _ (untimed_setFlag _ _ (by decide) (.refl r))
theorem rmwUntimed_rorByte : RmwUntimed rorByte := fun _ r => untimed_setNZ _ (untimed_setFlag _ _ (by decide) (.refl r))

theorem untimed_addWithCarry (m : Byte) (r : Cpu) : Untimed r (addWithCarry m r) := by
  refine ⟨rfl, fun h => ?_⟩
  rw [addWithCarry_flag]
  exact h

theorem untimed_compare (g m : Byte) (r : Cpu) : Untimed r (compare g m r) := by
  refine ⟨rfl, fun h => ?_⟩
  rw [compare_flag]
  exact h

theorem untimed_bitTest (m : Byte) (r : Cpu) : Untimed r (bitTest m r) := by
  refine ⟨rfl, fun h => ?_⟩
  rw [bitTest_flag]
  exact h

theorem untimed_pulled {r q : Cpu} (v : Byte) (h : q.totalCycles = r.totalCycles) : Untimed r { q with p := pulledStatus v } :=
  ⟨h, fun _ => by rw [Cpu.flag_eq, getFlag_pulledStatus]; rfl⟩

theorem untimed_enterInterrupt (v : Word) (b : Bool) (s : State) (hv : v = 0xFFFA ∨ v = 0xFFFC ∨ v = 0xFFFE) :
    Untimed s.cpu (enterInterrupt v b none s).cpu := by
  rw [enterInterrupt_eq _ _ _ _ hv]
  refine ⟨rfl, fun h => ?_⟩
  simp only [paceEntry, Cpu.flag_mk, getFlag_setFlag]
  exact h

theorem untimed_returnFromInterrupt (s : State) : Untimed s.cpu (returnFromInterrupt s).cpu := by
  rw [returnFromInterrupt_eq]
  exact ⟨rfl, fun _ => by simp only [Cpu.flag_mk, getFlag_pulledStatus]; rfl⟩

@[simp] theorem readWordJmpInd_cpu (a : Word) (s : State) : (readWordJmpInd a s).2.cpu = s.cpu := by
  simp [readWordJmpInd]

/-- Every instruction ends in the completion of R401. -/
theorem exec_endsIn (i : Instr) (s : State) : EndsIn s (exec i s) := by
  have hnz : ∀ {q : Cpu} (v : Byte), Untimed s.cpu q → Untimed s.cpu (setNZ v q) := fun v h => untimed_setNZ v h
  cases i
  case lda o => exact endsIn_operand o s _ (hnz _ ⟨by simp, by simp [Cpu.flag_eq]⟩)
  case ldx o => exact endsIn_operand o s _ (hnz _ ⟨by simp, by simp [Cpu.flag_eq]⟩)
  case ldy o => exact endsIn_operand o s _ (hnz _ ⟨by simp, by simp [Cpu.flag_eq]⟩)
  case and o => exact endsIn_operand o s _ (hnz _ ⟨by simp, by simp [Cpu.flag_eq]⟩)
  case ora o => exact endsIn_operand o s _ (hnz _ ⟨by simp, by simp [Cpu.flag_eq]⟩)
  case eor o => exact endsIn_operand o s _ (hnz _ ⟨by simp, by simp [Cpu.flag_eq]⟩)
  case adc o => exact endsIn_operand o s _ (by rw [readOperand_cpu]; exact untimed_addWithCarry _ _)
  case sbc o => exact endsIn_operand o s _ (by rw [readOperand_cpu]; exact untimed_addWithCarry _ _)
  case cmp o => exact endsIn_operand o s _ (by rw [readOperand_cpu]; exact untimed_compare _ _ _)
  case cpx o => exact endsIn_operand o s _ (by rw [readOperand_cpu]; exact untimed_compare _ _ _)
  case cpy o => exact endsIn_operand o s _ (by rw [readOperand_cpu]; exact untimed_compare _ _ _)
  case bit m => exact endsIn_operand (.mem m) s _ (by rw [readMem_cpu]; exact untimed_bitTest _ _)
  case sta m => exact endsIn_store m _ s
  case stx m => exact endsIn_store m _ s
  case sty m => exact endsIn_store m _ s
  case inc m => exact endsIn_modifyMem m _ rmwUntimed_incByte s
  case dec m => exact endsIn_modifyMem m _ rmwUntimed_decByte s
  case asl o => exact endsIn_modifyOperand o _ rmwUntimed_aslByte s
  case lsr o => exact endsIn_modifyOperand o _ rmwUntimed_lsrByte s
  case rol o => exact endsIn_modifyOperand o _ rmwUntimed_rolByte s
  case ror o => exact endsIn_modifyOperand o _ rmwUntimed_rorByte s
  case pha => exact .mk (by decide) (by decide) (by rw [push_cpu]; exact ⟨rfl, id⟩)
  case php => exact .mk (by decide) (by decide) (by rw [push_cpu]; exact ⟨rfl, id⟩)
  case pla => exact .mk (by decide) (by decide) (hnz _ (by rw [pull_cpu]; exact ⟨rfl, id⟩))
  case plp => exact .mk (by decide) (by decide) (untimed_pulled _ (by rw [pull_cpu]))
  case jmp o =>
    cases o
    · exact .mk (by decide) (by decide) ⟨rfl, id⟩
    · exact .mk (by decide) (by decide) ⟨by simp, by simp⟩
  case jsr w => exact .mk (by decide) (by decide) ⟨by simp, by simp [Cpu.flag_eq]⟩
  case rts => exact .mk (by decide) (by decide) ⟨by simp, by simp [Cpu.flag_eq]⟩
  case brk =>
    have h := untimed_enterInterrupt 0xFFFE true (setPc (s.cpu.pc - 1 + 2) s) (.inr (.inr rfl))
    exact ⟨7, _, rfl, by decide, by decide, h.1, h.2⟩
  case rti => exact .mk (by decide) (by decide) (untimed_returnFromInterrupt s)
  case bcc off => exact endsIn_branch _ off s
  case bcs off => exact endsIn_branch _ off s
  case beq off => exact endsIn_branch _ off s
  case bmi off => exact endsIn_branch _ off s
  case bne off => exact endsIn_branch _ off s
  case bpl off => exact endsIn_branch _ off s
  case bvc off => exact endsIn_branch _ off s
  case bvs off => exact endsIn_branch _ off s
  case nop => exact .mk (by decide) (by decide) (.refl _)
  case nopIllegal b => exact .mk (by decide) (by decide) (.refl _)
  case txs => exact .mk (by decide) (by decide) ⟨rfl, id⟩
  case clc => exact .mk (by decide) (by decide) (untimed_setFlag _ _ (by decide) (.refl _))
  case sec => exact .mk (by decide) (by decide) (untimed_setFlag _ _ (by decide) (.refl _))
  case cli => exact .mk (by decide) (by decide) (untimed_setFlag _ _ (by decide) (.refl _))
  case sei => exact .mk (by decide) (by decide) (untimed_setFlag _ _ (by decide) (.refl _))
  case cld => exact .mk (by decide) (by decide) (untimed_setFlag _ _ (by decide) (.refl _))
  case sed => exact .mk (by decide) (by decide) (untimed_setFlag _ _ (by decide) (.refl _))
  case clv => exact .mk (by decide) (by decide) (untimed_setFlag _ _ (by decide) (.refl _))
  all_goals exact .mk (by decide) (by decide) (hnz _ ⟨rfl, id⟩)

end Sys2Proof.Machine
end

