-- ==== Sys2Proof/Laws/Clock.lean ====
section
/-! SUPPORT. Sys2Proof/Laws/Clock.lean: what one step can do to the System, said once: the answers of the clock and the slot, and a closure lemma that carries a property through a whole step from the few updates a step is made of. -/

namespace Sys2Proof.Machine

/-! ## The APU tick -/

@[simp] theorem frameTick_dmc (w : FrameWrap) (a : Apu) : (frameTick w a).dmc = a.dmc := by
  unfold frameTick frameClocks setFrameCycle raiseFrameIrq
  dsimp only
  split_ifs <;> rfl

@[simp] theorem busRead_dmc (x : Word) (s : State) : (busRead x s).2.apu.dmc = s.apu.dmc := by
  rw [(busRead_effects x s).2.2.2.2.2.2.2.2.2.1]

@[simp] theorem resample_dmc (c : Config) (a : Apu) : (resample c a).dmc = a.dmc := by
  unfold resample; dsimp only; split_ifs <;> rfl

@[simp] theorem dmcAdvance_bits (d : Dmc) : (dmcAdvance d).bitsRemaining = d.bitsRemaining := by
  unfold dmcAdvance; dsimp only; split_ifs <;> rfl

/-- A property, with a range Q of `bits_remaining`, that an APU tick carries over: kept by a bus read, by the stall it may ask for,
and by any change of the APU's registers that leaves `bits_remaining` in range. -/
structure TickInvariant (P : State → Prop) (Q : Nat → Prop) : Prop where
  read : ∀ x s, P s → P (busRead x s).2
  stall : ∀ s, P s → P { s with dmcStall := min 4 (s.dmcStall + s.config.dmcStall) }
  dmc : ∀ d s, Q d.bitsRemaining → P s → P (setDmc d s)
  sequencer : ∀ s, P s →
    P { s with
      apu := { frameTick s.config.frameWrap s.apu with triangle := stepTriangle (frameTick s.config.frameWrap s.apu).triangle } }
  timers : ∀ s, P s → P { s with apu := stepTimers s.config.noisePeriodTable s.apu }
  output : ∀ s, P s → P { s with apu := { resample s.config s.apu with tickCount := s.apu.tickCount + 1 } }
  eight : Q 8
  fewer : ∀ n, Q n → n - 1 ≠ 0 → Q (n - 1)

namespace TickInvariant

variable {P : State → Prop} {Q : Nat → Prop} (hP : TickInvariant P Q)
include hP

theorem dmcReload {s : State} (h : P s) : P (dmcReload s) := by
  unfold Machine.dmcReload
  dsimp only
  have h1 : P (setDmc { s.apu.dmc with bitsRemaining := 8 } s) := hP.dmc _ _ hP.eight h
  split_ifs
  · unfold dmcFetch
    dsimp only
    refine hP.dmc _ _ ?_ (hP.dmc _ _ ?_ (hP.stall _ (hP.read _ _ h1)))
    · simp [hP.eight]
    · simp [hP.eight]
  · exact hP.dmc _ _ hP.eight h1

theorem dmcStep {s : State} (h : P s) (hq : Q s.apu.dmc.bitsRemaining) : P (dmcStep s) := by
  unfold Machine.dmcStep
  dsimp only
  split_ifs with h0 h1
  · exact hP.dmc _ _ hq h
  · have e : ∀ d, Machine.dmcReload (setDmc d s) = Machine.dmcReload (setDmc { d with bitsRemaining := 8 } s) := fun _ => rfl
    rw [e]
    exact hP.dmcReload (hP.dmc _ _ hP.eight h)
  · exact hP.dmc _ _ (hP.fewer _ hq h1) h

theorem apuTick {s : State} (h : P s) (hq : Q s.apu.dmc.bitsRemaining) : P (apuTick s) := by
  unfold Machine.apuTick
  dsimp only
  refine hP.output _ ?_
  split_ifs
  · refine hP.dmcStep (hP.timers _ (hP.sequencer _ h)) ?_
    simpa [stepTimers] using hq
  · exact hP.sequencer _ h

end TickInvariant

/-! ## The clock -/

/-- `clock()` always answers; between instructions it counts one cycle, else it ends an instruction. -/
theorem clock_next (s : State) : ∃ t, clock s = .next t := by
  unfold clock
  split_ifs
  · exact ⟨_, rfl⟩
  · obtain ⟨n, u, h, -⟩ := exec_endsIn (fetch (beginInstruction s)).1 (fetch (beginInstruction s)).2
    exact ⟨_, h⟩

theorem slotWork_next (s : State) : ∃ t, slotWork s = .next t := by
  unfold slotWork
  split_ifs
  · exact ⟨_, rfl⟩
  · exact ⟨_, rfl⟩
  · exact clock_next s

theorem fetchByte_keeps {P : State → Prop} (hP : BusInvariant P) {s : State} (h : P s) : P (fetchByte s).2 :=
  hP.setPc _ (hP.read _ _ h)

theorem fetchByteIf_keeps {P : State → Prop} (hP : BusInvariant P) (b : Bool) {s : State} (h : P s) : P (fetchByteIf b s).2 := by
  cases b
  · exact h
  · exact fetchByte_keeps hP h

theorem fetch_keeps {P : State → Prop} (hP : BusInvariant P) {s : State} (h : P s) : P (fetch s).2 :=
  fetchByteIf_keeps hP _ (fetchByteIf_keeps hP _ (fetchByte_keeps hP h))

theorem clock_keeps {P : State → Prop} (hP : BusInvariant P) {s t : State} (h : P s) (ht : clock s = .next t) : P t := by
  unfold clock at ht
  split_ifs at ht with h0
  · obtain rfl : decrementCycles s = t := by simpa using ht
    exact hP.cpu _ _ h
  · obtain ⟨u, hu, hp⟩ := exec_keeps hP (fetch (beginInstruction s)).1 _ (fetch_keeps hP (hP.beginInstruction h))
    rw [hu] at ht
    obtain rfl : u = t := by simpa using ht
    exact hp

/-! ## The whole step -/

/-- A property that every update a CPU slot is made of keeps, but for the counting of slots. -/
structure WorkInvariant (P : State → Prop) (Q : Nat → Prop) : Prop extends BusInvariant P, TickInvariant P Q where
  bits : ∀ s, P s → Q s.apu.dmc.bitsRemaining
  dma : ∀ d s, P s → P { s with dma := d }
  oam : ∀ k v s, k < 256 → P s → P { s with ppu := { s.ppu with oam := s.ppu.oam.write k v } }
  unstall : ∀ s, P s → P { s with dmcStall := s.dmcStall - 1 }
  mapperTick : ∀ s, P s → P { s with cart := mapperCpuTick s.cart }
  noNmi : ∀ s, P s → P { s with ppu := { s.ppu with nmiPending := false } }
  noMapperIrq : ∀ s, P s → P { s with cart := { s.cart with mapper := { s.cart.mapper with irqPending := false } } }

/-- A property that the counting of slots and master cycles keeps as well: the whole part of a step after the PPU's dot. -/
structure SlotInvariant (P : State → Prop) (Q : Nat → Prop) : Prop extends WorkInvariant P Q where
  slots : ∀ s, P s → P { s with cpuTickCount := s.cpuTickCount + 1 }
  cycles : ∀ s, P s → P (endTick s)

/-- A property that the PPU's dot keeps as well, so that a step keeps it. -/
structure StepInvariant (P : State → Prop) (Q : Nat → Prop) : Prop extends SlotInvariant P Q where
  dot : ∀ s, P s → P (dotPhase s)

namespace WorkInvariant

variable {P : State → Prop} {Q : Nat → Prop} (hP : WorkInvariant P Q)
include hP

theorem dmaStep (c : Nat) {s : State} (h : P s) : P (dmaStep c s) := by
  unfold Machine.dmaStep
  dsimp only
  split_ifs
  · exact hP.dma _ _ h
  · exact h
  · exact hP.dma _ _ (hP.toBusInvariant.read _ _ h)
  · exact hP.dma _ _ (hP.oam _ _ _ s.dma.addr.isLt h)
  · exact hP.dma _ _ (hP.oam _ _ _ s.dma.addr.isLt h)

theorem irq {s : State} (h : P s) : P (irq s) := by
  unfold Machine.irq
  split_ifs
  · exact h
  · exact hP.enterInterrupt _ _ _ h

theorem interruptPoll {s : State} (h : P s) : P (interruptPoll s) := by
  have hm : P (mapperIrq s).2 := by
    unfold mapperIrq
    cases s.config.mapperIrqRetention
    · exact hP.noMapperIrq _ h
    · exact h
  have hl : P (irqLine s).2 := by
    unfold irqLine
    dsimp only
    split_ifs
    · exact h
    · exact hm
  unfold Machine.interruptPoll
  dsimp only
  split_ifs
  · exact hP.enterInterrupt _ _ _ (hP.noNmi _ h)
  · exact hP.irq hl
  · exact hl
  · exact h

theorem polled {s : State} (h : P s) :
    P (Machine.interruptPoll { apuTick s with cart := mapperCpuTick (apuTick s).cart }) :=
  hP.interruptPoll (hP.mapperTick _ (hP.toTickInvariant.apuTick h (hP.bits _ h)))

theorem slotWork {s t : State} (h : P s) (ht : slotWork s = .next t) : P t := by
  unfold Machine.slotWork at ht
  split_ifs at ht
  · obtain rfl : Machine.dmaStep s.cpuTickCount s = t := by simpa using ht
    exact hP.dmaStep _ h
  · obtain rfl : { s with dmcStall := s.dmcStall - 1 } = t := by simpa using ht
    exact hP.unstall _ h
  · exact clock_keeps hP.toBusInvariant h ht

end WorkInvariant

theorem SlotInvariant.endSlot {P : State → Prop} {Q : Nat → Prop} (hP : SlotInvariant P Q) {s : State} (h : P s) : P (endSlot s) :=
  hP.slots _ (hP.toWorkInvariant.polled h)

theorem SlotInvariant.afterDot {P : State → Prop} {Q : Nat → Prop} (hP : SlotInvariant P Q) {s t : State} (h : P (dotPhase s)) (ht : step s = .next t) : P t := by
  unfold Machine.step tick cpuSlot at ht
  dsimp only at ht
  split_ifs at ht
  · obtain ⟨u, hu⟩ := slotWork_next (dotPhase s)
    rw [hu] at ht
    obtain rfl : endTick (Machine.endSlot u) = t := by simpa [mapNext] using ht
    exact hP.cycles _ (hP.endSlot (hP.toWorkInvariant.slotWork h hu))
  · obtain rfl : endTick (dotPhase s) = t := by simpa [mapNext] using ht
    exact hP.cycles _ h

theorem StepInvariant.step {P : State → Prop} {Q : Nat → Prop} (hP : StepInvariant P Q) {s t : State} (h : P s)
    (ht : step s = .next t) : P t := hP.toSlotInvariant.afterDot (hP.dot _ h) ht

/-- R400, R710: a System that holds a ROM always steps. -/
theorem step_next {s : State} (h : s.romLoaded = true) : ∃ t, step s = .next t := by
  unfold step tick cpuSlot
  rw [if_pos h]
  dsimp only
  split_ifs
  · obtain ⟨u, hu⟩ := slotWork_next (dotPhase s)
    rw [hu]
    exact ⟨_, rfl⟩
  · exact ⟨_, rfl⟩

/-- The counters, the parameters and the loaded ROM's mark are not a slot's work. -/
theorem workInvariant_counts (s : State) :
    WorkInvariant
      (fun t => t.masterCount = s.masterCount ∧ t.cpuTickCount = s.cpuTickCount ∧ t.romLoaded = s.romLoaded ∧ t.config = s.config)
      (fun _ => True) where
  read a t h := by
    obtain ⟨-, -, -, -, e5, e6, e7, e8, -⟩ := busRead_effects a t
    exact ⟨e5.trans h.1, e6.trans h.2.1, e7.trans h.2.2.1, e8.trans h.2.2.2⟩
  write a v t h := by simpa using h
  cpu _ _ h := h
  stall _ h := h
  dmc _ _ _ h := h
  sequencer _ h := h
  timers _ h := h
  output _ h := h
  eight := trivial
  fewer _ _ _ := trivial
  bits _ _ := trivial
  dma _ _ h := h
  oam _ _ _ _ h := h
  unstall _ h := h
  mapperTick _ h := h
  noNmi _ h := h
  noMapperIrq _ h := h

/-- R42, R43, R430: what a step does to the counters, and that it keeps the parameters and the loaded ROM's mark. -/
theorem step_counts {s t : State} (ht : step s = .next t) :
    t.masterCount = s.masterCount + 1 ∧ t.cpuTickCount = s.cpuTickCount + (if s.masterCount % 3 = 0 then 1 else 0)
      ∧ t.romLoaded = s.romLoaded ∧ t.config = s.config := by
  have hd : (dotPhase s).masterCount = s.masterCount ∧ (dotPhase s).cpuTickCount = s.cpuTickCount
      ∧ (dotPhase s).romLoaded = s.romLoaded ∧ (dotPhase s).config = s.config := by
    unfold dotPhase; dsimp only; split_ifs <;> exact ⟨rfl, rfl, rfl, rfl⟩
  unfold step tick cpuSlot at ht
  dsimp only at ht
  rw [hd.1] at ht
  split_ifs at ht with h1 h2
  · obtain ⟨u, hu⟩ := slotWork_next (dotPhase s)
    have hw := (workInvariant_counts s).polled ((workInvariant_counts s).slotWork hd hu)
    rw [hu] at ht
    obtain rfl : endTick (endSlot u) = t := by simpa [mapNext] using ht
    rw [if_pos h2]
    exact ⟨congrArg (· + 1) hw.1, congrArg (· + 1) hw.2.1, hw.2.2.1, hw.2.2.2⟩
  · obtain rfl : endTick (dotPhase s) = t := by simpa [mapNext] using ht
    rw [if_neg h2]
    exact ⟨congrArg (· + 1) hd.1, hd.2.1, hd.2.2.1, hd.2.2.2⟩

/-! ## The CPU's registers through a step -/

/-- What no part of a step breaks about the CPU: U = 1 and B = 0, at most 8 cycles left, `total_cycles` not below what it was. -/
structure CpuKept (r q : Cpu) : Prop where
  status : r.flag .u = true → r.flag .b = false → q.flag .u = true ∧ q.flag .b = false
  remaining : r.cyclesRemaining ≤ 8 → q.cyclesRemaining ≤ 8
  total : r.totalCycles ≤ q.totalCycles

theorem CpuKept.refl (r : Cpu) : CpuKept r r := ⟨fun h k => ⟨h, k⟩, id, Nat.le_refl _⟩

theorem CpuKept.trans {r q o : Cpu} (h : CpuKept r q) (k : CpuKept q o) : CpuKept r o :=
  ⟨fun a b => k.status (h.status a b).1 (h.status a b).2, fun a => k.remaining (h.remaining a), Nat.le_trans h.total k.total⟩

theorem CpuKept.of_eq {r q : Cpu} (h : q = r) : CpuKept r q := h ▸ .refl r

theorem fetchByte_cpu (s : State) : (fetchByte s).2.cpu = { s.cpu with pc := s.cpu.pc + 1 } := by
  unfold fetchByte setPc; simp

theorem fetchByteIf_kept (b : Bool) (s : State) : CpuKept s.cpu (fetchByteIf b s).2.cpu := by
  cases b
  · exact .refl _
  · show CpuKept s.cpu (fetchByte s).2.cpu
    rw [fetchByte_cpu]
    exact ⟨fun h k => ⟨h, k⟩, id, Nat.le_refl _⟩

theorem fetch_kept (s : State) : CpuKept s.cpu (fetch s).2.cpu :=
  (CpuKept.trans (fetchByteIf_kept true s) (fetchByteIf_kept _ _)).trans (fetchByteIf_kept _ _)

theorem beginInstruction_kept (s : State) : CpuKept s.cpu (beginInstruction s).cpu :=
  ⟨fun _ h => ⟨by rw [beginInstruction_cpu_flag]; rfl, by rw [beginInstruction_cpu_flag, if_neg (by decide)]; exact h⟩, id, Nat.le_refl _⟩

theorem exec_kept {i : Instr} {s t : State} (h : exec i s = .next t) : CpuKept s.cpu t.cpu := by
  obtain ⟨n, u, hu, h2, h8, ht, hb⟩ := exec_endsIn i s
  rw [h] at hu
  obtain rfl : t = complete n u := by simpa using hu
  refine ⟨fun _ b => ⟨by simp, ?_⟩, fun _ => ?_, ?_⟩
  · rw [complete_cpu_flag, if_neg (by decide)]
    exact hb b
  · rw [complete_cpu_cyclesRemaining]
    unfold remainingAfter
    split <;> omega
  · rw [complete_cpu_totalCycles, ht]
    omega

theorem clock_kept {s t : State} (h : clock s = .next t) : CpuKept s.cpu t.cpu := by
  unfold clock at h
  split_ifs at h
  · obtain rfl : decrementCycles s = t := by simpa using h
    exact ⟨fun a b => ⟨a, b⟩, fun a => Nat.le_trans (Nat.sub_le _ _) a, Nat.le_refl _⟩
  · exact (beginInstruction_kept s).trans ((fetch_kept _).trans (exec_kept h))

/-- The parts of a step that leave the CPU alone. -/
theorem tickInvariant_cpu (r : Cpu) : TickInvariant (fun s => s.cpu = r) (fun _ => True) where
  read x s h := (busRead_cpu x s).trans h
  stall _ h := h
  dmc _ _ _ h := h
  sequencer _ h := h
  timers _ h := h
  output _ h := h
  eight := trivial
  fewer _ _ _ := trivial

@[simp] theorem apuTick_cpu (s : State) : (apuTick s).cpu = s.cpu := (tickInvariant_cpu s.cpu).apuTick rfl trivial

@[simp] theorem dotPhase_cpu (s : State) : (dotPhase s).cpu = s.cpu := by
  unfold dotPhase; dsimp only; split_ifs <;> rfl

@[simp] theorem dmaStep_cpu (c : Nat) (s : State) : (dmaStep c s).cpu = s.cpu := by
  unfold dmaStep
  dsimp only
  split_ifs <;> first | rfl | exact busRead_cpu _ _

@[simp] theorem mapperIrq_cpu (s : State) : (mapperIrq s).2.cpu = s.cpu := by
  unfold mapperIrq; cases s.config.mapperIrqRetention <;> rfl

@[simp] theorem irqLine_cpu (s : State) : (irqLine s).2.cpu = s.cpu := by
  unfold irqLine
  dsimp only
  split_ifs
  · rfl
  · exact mapperIrq_cpu s

/-- R410, R411: an interrupt entered in n cycles. -/
theorem enterInterrupt_kept (v : Word) (b : Bool) (n : Nat) (s : State) (hv : v = 0xFFFA ∨ v = 0xFFFC ∨ v = 0xFFFE) (hn : n ≤ 8) :
    CpuKept s.cpu (enterInterrupt v b (some n) s).cpu := by
  rw [enterInterrupt_eq _ _ _ _ hv]
  refine ⟨fun h k => ⟨?_, ?_⟩, fun _ => hn, Nat.le_add_right _ _⟩
  · simp only [paceEntry, Cpu.flag_mk, getFlag_setFlag]
    exact h
  · simp only [paceEntry, Cpu.flag_mk, getFlag_setFlag]
    exact k

/-- R405: what `irq()` goes by. -/
theorem irqMasked_iff (s : State) : irqMasked s = true ↔ IrqMasked s := by
  unfold irqMasked IrqMasked
  simp only [Bool.and_eq_true, Bool.not_eq_true', Bool.and_eq_false_iff, beq_eq_false_iff_ne, Bool.not_eq_true, not_and]
  refine and_congr_right fun _ => ⟨?_, ?_⟩
  · rintro (h | h) k
    · exact absurd k h
    · exact h
  · intro h
    by_cases k : s.config.brkIrq = .entered
    · exact .inr (h k)
    · exact .inl k

/-- R411: `irq()` while it is masked, and while it is not. -/
theorem irq_masked {s : State} (h : IrqMasked s) : irq s = s := if_pos ((irqMasked_iff s).2 h)

theorem irq_unmasked {s : State} (h : ¬ IrqMasked s) : irq s = enterInterrupt 0xFFFE false (some 7) s :=
  if_neg fun k => h ((irqMasked_iff s).1 k)

theorem irq_kept (s : State) : CpuKept s.cpu (irq s).cpu := by
  unfold irq
  split_ifs
  · exact .refl _
  · exact enterInterrupt_kept _ _ _ _ (.inr (.inr rfl)) (by decide)

theorem interruptPoll_kept (s : State) : CpuKept s.cpu (interruptPoll s).cpu := by
  unfold interruptPoll
  dsimp only
  split_ifs
  · exact enterInterrupt_kept _ _ _ { s with ppu := { s.ppu with nmiPending := false } } (.inl rfl) (by decide)
  · have h := irq_kept (irqLine s).2
    rwa [irqLine_cpu] at h
  · exact .of_eq (irqLine_cpu s)
  · exact .refl _

theorem endSlot_kept (s : State) : CpuKept s.cpu (endSlot s).cpu := by
  have h := interruptPoll_kept { apuTick s with cart := mapperCpuTick (apuTick s).cart }
  exact (CpuKept.of_eq (apuTick_cpu s)).trans h

/-- What a step keeps of the CPU. -/
theorem step_kept {s t : State} (ht : step s = .next t) : CpuKept s.cpu t.cpu := by
  have hd : CpuKept s.cpu (dotPhase s).cpu := .of_eq (dotPhase_cpu s)
  unfold step tick cpuSlot at ht
  dsimp only at ht
  split_ifs at ht
  · obtain ⟨u, hu⟩ := slotWork_next (dotPhase s)
    have hk : CpuKept (dotPhase s).cpu u.cpu := by
      unfold slotWork at hu
      split_ifs at hu
      · obtain rfl : dmaStep (dotPhase s).cpuTickCount (dotPhase s) = u := by simpa using hu
        exact .of_eq (dmaStep_cpu _ _)
      · obtain rfl : { dotPhase s with dmcStall := (dotPhase s).dmcStall - 1 } = u := by simpa using hu
        exact .refl _
      · exact clock_kept hu
    rw [hu] at ht
    obtain rfl : endTick (endSlot u) = t := by simpa [mapNext] using ht
    exact (hd.trans hk).trans (endSlot_kept u)
  · obtain rfl : endTick (dotPhase s) = t := by simpa [mapNext] using ht
    exact hd

end Sys2Proof.Machine
end

