-- ==== Sys2Proof/Laws/Decode.lean ====
section
/-! SUPPORT. Sys2Proof/Laws/Decode.lean: the opcode map as a list: which opcodes it has, and what holds of each of its rows. -/

namespace Sys2Proof.Machine

/-- What holds of a row of the map: its instruction is well formed and has its opcode. -/
def rowOk (p : Byte × Instr) : Bool := p.2.wf && (p.2.opcode == some p.1)

/-- A row's opcode and length. -/
def rowShape (p : Byte × Instr) : Byte × Nat := (p.1, p.2.length)

/-- The operand bytes a row's length asks for: those of the word when it is 3, else the first of them or none. -/
def rowOperands (b1 : Byte) (w : Word) (p : Byte × Instr) : List Byte :=
  if p.2.length = 3 then wordBytes w else [b1].take (p.2.length - 1)

variable (b1 : Byte) (w : Word)

theorem opcodeRow0_ok : (opcodeRow0 b1 w).all rowOk = true := rfl
theorem opcodeRow1_ok : (opcodeRow1 b1 w).all rowOk = true := rfl
theorem opcodeRow2_ok : (opcodeRow2 b1 w).all rowOk = true := rfl
theorem opcodeRow3_ok : (opcodeRow3 b1 w).all rowOk = true := rfl
theorem opcodeRow4_ok : (opcodeRow4 b1 w).all rowOk = true := rfl
theorem opcodeRow5_ok : (opcodeRow5 b1 w).all rowOk = true := rfl
theorem opcodeRow6_ok : (opcodeRow6 b1 w).all rowOk = true := rfl
theorem opcodeRow7_ok : (opcodeRow7 b1 w).all rowOk = true := rfl
theorem opcodeRow8_ok : (opcodeRow8 b1 w).all rowOk = true := rfl
theorem opcodeRow9_ok : (opcodeRow9 b1 w).all rowOk = true := rfl
theorem opcodeRowA_ok : (opcodeRowA b1 w).all rowOk = true := rfl
theorem opcodeRowB_ok : (opcodeRowB b1 w).all rowOk = true := rfl
theorem opcodeRowC_ok : (opcodeRowC b1 w).all rowOk = true := rfl
theorem opcodeRowD_ok : (opcodeRowD b1 w).all rowOk = true := rfl
theorem opcodeRowE_ok : (opcodeRowE b1 w).all rowOk = true := rfl
theorem opcodeRowF_ok : (opcodeRowF b1 w).all rowOk = true := rfl

theorem opcodeRow0_shape : (opcodeRow0 b1 w).map rowShape = (opcodeRow0 0 0).map rowShape := rfl
theorem opcodeRow1_shape : (opcodeRow1 b1 w).map rowShape = (opcodeRow1 0 0).map rowShape := rfl
theorem opcodeRow2_shape : (opcodeRow2 b1 w).map rowShape = (opcodeRow2 0 0).map rowShape := rfl
theorem opcodeRow3_shape : (opcodeRow3 b1 w).map rowShape = (opcodeRow3 0 0).map rowShape := rfl
theorem opcodeRow4_shape : (opcodeRow4 b1 w).map rowShape = (opcodeRow4 0 0).map rowShape := rfl
theorem opcodeRow5_shape : (opcodeRow5 b1 w).map rowShape = (opcodeRow5 0 0).map rowShape := rfl
theorem opcodeRow6_shape : (opcodeRow6 b1 w).map rowShape = (opcodeRow6 0 0).map rowShape := rfl
theorem opcodeRow7_shape : (opcodeRow7 b1 w).map rowShape = (opcodeRow7 0 0).map rowShape := rfl
theorem opcodeRow8_shape : (opcodeRow8 b1 w).map rowShape = (opcodeRow8 0 0).map rowShape := rfl
theorem opcodeRow9_shape : (opcodeRow9 b1 w).map rowShape = (opcodeRow9 0 0).map rowShape := rfl
theorem opcodeRowA_shape : (opcodeRowA b1 w).map rowShape = (opcodeRowA 0 0).map rowShape := rfl
theorem opcodeRowB_shape : (opcodeRowB b1 w).map rowShape = (opcodeRowB 0 0).map rowShape := rfl
theorem opcodeRowC_shape : (opcodeRowC b1 w).map rowShape = (opcodeRowC 0 0).map rowShape := rfl
theorem opcodeRowD_shape : (opcodeRowD b1 w).map rowShape = (opcodeRowD 0 0).map rowShape := rfl
theorem opcodeRowE_shape : (opcodeRowE b1 w).map rowShape = (opcodeRowE 0 0).map rowShape := rfl
theorem opcodeRowF_shape : (opcodeRowF b1 w).map rowShape = (opcodeRowF 0 0).map rowShape := rfl

theorem opcodeRow0_operands :
    (opcodeRow0 b1 w).map (fun p => p.2.operandBytes) = (opcodeRow0 b1 w).map (rowOperands b1 w) := rfl
theorem opcodeRow1_operands :
    (opcodeRow1 b1 w).map (fun p => p.2.operandBytes) = (opcodeRow1 b1 w).map (rowOperands b1 w) := rfl
theorem opcodeRow2_operands :
    (opcodeRow2 b1 w).map (fun p => p.2.operandBytes) = (opcodeRow2 b1 w).map (rowOperands b1 w) := rfl
theorem opcodeRow3_operands :
    (opcodeRow3 b1 w).map (fun p => p.2.operandBytes) = (opcodeRow3 b1 w).map (rowOperands b1 w) := rfl
theorem opcodeRow4_operands :
    (opcodeRow4 b1 w).map (fun p => p.2.operandBytes) = (opcodeRow4 b1 w).map (rowOperands b1 w) := rfl
theorem opcodeRow5_operands :
    (opcodeRow5 b1 w).map (fun p => p.2.operandBytes) = (opcodeRow5 b1 w).map (rowOperands b1 w) := rfl
theorem opcodeRow6_operands :
    (opcodeRow6 b1 w).map (fun p => p.2.operandBytes) = (opcodeRow6 b1 w).map (rowOperands b1 w) := rfl
theorem opcodeRow7_operands :
    (opcodeRow7 b1 w).map (fun p => p.2.operandBytes) = (opcodeRow7 b1 w).map (rowOperands b1 w) := rfl
theorem opcodeRow8_operands :
    (opcodeRow8 b1 w).map (fun p => p.2.operandBytes) = (opcodeRow8 b1 w).map (rowOperands b1 w) := rfl
theorem opcodeRow9_operands :
    (opcodeRow9 b1 w).map (fun p => p.2.operandBytes) = (opcodeRow9 b1 w).map (rowOperands b1 w) := rfl
theorem opcodeRowA_operands :
    (opcodeRowA b1 w).map (fun p => p.2.operandBytes) = (opcodeRowA b1 w).map (rowOperands b1 w) := rfl
theorem opcodeRowB_operands :
    (opcodeRowB b1 w).map (fun p => p.2.operandBytes) = (opcodeRowB b1 w).map (rowOperands b1 w) := rfl
theorem opcodeRowC_operands :
    (opcodeRowC b1 w).map (fun p => p.2.operandBytes) = (opcodeRowC b1 w).map (rowOperands b1 w) := rfl
theorem opcodeRowD_operands :
    (opcodeRowD b1 w).map (fun p => p.2.operandBytes) = (opcodeRowD b1 w).map (rowOperands b1 w) := rfl
theorem opcodeRowE_operands :
    (opcodeRowE b1 w).map (fun p => p.2.operandBytes) = (opcodeRowE b1 w).map (rowOperands b1 w) := rfl
theorem opcodeRowF_operands :
    (opcodeRowF b1 w).map (fun p => p.2.operandBytes) = (opcodeRowF b1 w).map (rowOperands b1 w) := rfl

/-- R140, R158: every row of the map is right about its opcode, for any operand bytes. -/
theorem legalTable_ok : (legalTable b1 w).all rowOk = true := by
  unfold legalTable
  simp only [List.all_append, opcodeRow0_ok, opcodeRow1_ok, opcodeRow2_ok, opcodeRow3_ok, opcodeRow4_ok, opcodeRow5_ok, opcodeRow6_ok, opcodeRow7_ok, opcodeRow8_ok, opcodeRow9_ok, opcodeRowA_ok, opcodeRowB_ok, opcodeRowC_ok, opcodeRowD_ok, opcodeRowE_ok, opcodeRowF_ok, Bool.and_true]

/-- The rows' opcodes and lengths do not depend on the operand bytes. -/
theorem legalTable_shape : (legalTable b1 w).map rowShape = (legalTable 0 0).map rowShape := by
  unfold legalTable
  simp only [List.map_append]
  rw [opcodeRow0_shape b1 w, opcodeRow1_shape b1 w, opcodeRow2_shape b1 w, opcodeRow3_shape b1 w, opcodeRow4_shape b1 w, opcodeRow5_shape b1 w, opcodeRow6_shape b1 w, opcodeRow7_shape b1 w, opcodeRow8_shape b1 w, opcodeRow9_shape b1 w, opcodeRowA_shape b1 w, opcodeRowB_shape b1 w, opcodeRowC_shape b1 w, opcodeRowD_shape b1 w, opcodeRowE_shape b1 w, opcodeRowF_shape b1 w]

/-- A row's operand bytes are those its length asks for. -/
theorem legalTable_operands :
    (legalTable b1 w).map (fun p => p.2.operandBytes) = (legalTable b1 w).map (rowOperands b1 w) := by
  unfold legalTable
  simp only [List.map_append]
  rw [opcodeRow0_operands, opcodeRow1_operands, opcodeRow2_operands, opcodeRow3_operands, opcodeRow4_operands, opcodeRow5_operands, opcodeRow6_operands, opcodeRow7_operands, opcodeRow8_operands, opcodeRow9_operands, opcodeRowA_operands, opcodeRowB_operands, opcodeRowC_operands, opcodeRowD_operands, opcodeRowE_operands, opcodeRowF_operands]

/-- The opcodes of R158's table, in order. -/
def legalOpcodes : List Byte := (legalTable 0 0).map Prod.fst

theorem legalTable_opcodes : (legalTable b1 w).map Prod.fst = legalOpcodes := by
  have h := congrArg (List.map Prod.fst) (legalTable_shape b1 w)
  simpa [List.map_map, rowShape, Function.comp_def, legalOpcodes] using h

/-- R158: 151 legal opcodes. -/
theorem legalOpcodes_length : legalOpcodes.length = 151 :=
  Nat.eq_of_beq_eq_true (by decide +kernel)

/-- R158, R159: each byte is in one of the two lists and not in the other. -/
theorem opcodes_split :
    (List.range 256).all (fun n =>
      (illegalOpcodes.map BitVec.toNat).all (fun k => !Nat.beq k n) == (legalOpcodes.map BitVec.toNat).any (fun k => Nat.beq k n))
      = true := by decide +kernel

/-- R158, R159: an opcode is illegal when it is not in the table. -/
theorem mem_illegal_iff (op : Byte) : op ∈ illegalOpcodes ↔ op ∉ legalOpcodes := by
  have h := List.all_eq_true.mp opcodes_split op.toNat (List.mem_range.mpr op.isLt)
  have mem : ∀ l : List Byte, (l.map BitVec.toNat).any (fun k => Nat.beq k op.toNat) = true ↔ op ∈ l := by
    intro l
    simp only [List.any_map, List.any_eq_true, Function.comp_apply, Nat.beq_eq, BitVec.toNat_inj]
    exact ⟨fun ⟨x, hx, e⟩ => e ▸ hx, fun hx => ⟨op, hx, rfl⟩⟩
  have hl := mem legalOpcodes
  have hi := mem illegalOpcodes
  rw [← List.not_any_eq_all_not, beq_iff_eq] at h
  rw [← hl, ← hi, ← h]
  simp

/-- All that holds of a row. -/
theorem row_spec {op : Byte} {i : Instr} (hp : (op, i) ∈ legalTable b1 w) :
    i.wf = true ∧ i.opcode = some op ∧ i.operandBytes = if i.length = 3 then wordBytes w else [b1].take (i.length - 1) := by
  have h1 := List.all_eq_true.mp (legalTable_ok b1 w) _ hp
  simp only [rowOk, Bool.and_eq_true, beq_iff_eq] at h1
  have h3 : i.operandBytes = rowOperands b1 w (op, i) := by
    obtain ⟨n, hn, he⟩ := List.mem_iff_getElem.mp hp
    have := congrArg (fun l => l[n]?) (legalTable_operands b1 w)
    simpa [List.getElem?_map, List.getElem?_eq_getElem hn, he] using this
  exact ⟨h1.1, h1.2, h3⟩

/-- A list's lookup finds a listed pair, or the key is in none. -/
theorem lookup_cases (op : Byte) (l : List (Byte × Instr)) :
    (∃ i, l.lookup op = some i ∧ (op, i) ∈ l) ∨ l.lookup op = none ∧ op ∉ l.map Prod.fst := by
  induction l with
  | nil => right; simp
  | cons p l ih =>
    obtain ⟨q, i⟩ := p
    rw [List.lookup_cons]
    by_cases h : op = q
    · subst h; left; exact ⟨i, by simp, by simp⟩
    · rw [beq_false_of_ne h]
      rcases ih with ⟨j, h1, h2⟩ | ⟨h1, h2⟩
      · exact .inl ⟨j, h1, List.mem_cons_of_mem _ h2⟩
      · right; refine ⟨h1, ?_⟩; simp [h]; simpa using h2

/-- R158, R159: an opcode byte decodes to its row, or, when it has none, to the illegal no-op. -/
theorem decodeByte_cases (op b1 b2 : Byte) :
    (op, decodeByte op b1 b2) ∈ legalTable b1 (mkWord b2 b1) ∧ op ∉ illegalOpcodes
      ∨ op ∈ illegalOpcodes ∧ decodeByte op b1 b2 = .nopIllegal op := by
  unfold decodeByte
  rcases lookup_cases op (legalTable b1 (mkWord b2 b1)) with ⟨i, h1, h2⟩ | ⟨h1, h2⟩
  · left
    rw [h1]
    refine ⟨h2, fun hi => (mem_illegal_iff op).mp hi ?_⟩
    rw [← legalTable_opcodes b1 (mkWord b2 b1)]
    exact List.mem_map.mpr ⟨_, h2, rfl⟩
  · right
    rw [h1]
    exact ⟨(mem_illegal_iff op).mpr (by rwa [legalTable_opcodes] at h2), rfl⟩

/-- R158: the table lists the opcodes in order. -/
theorem legalOpcodes_sorted :
    (List.zip (legalOpcodes.map BitVec.toNat) ((legalOpcodes.map BitVec.toNat).tail)).all (fun p => Nat.blt p.1 p.2) = true := by
  decide +kernel

/-- Neighbours in order make a list without repeats. -/
theorem nodup_of_zip_tail (l : List Nat) (h : (List.zip l l.tail).all (fun p => Nat.blt p.1 p.2) = true) : l.Nodup := by
  have hp : l.Pairwise (· < ·) := by
    rw [← List.isChain_iff_pairwise]
    induction l with
    | nil => exact .nil
    | cons a l ih =>
      cases l with
      | nil => exact .singleton a
      | cons b l =>
        simp only [List.tail_cons, List.zip_cons_cons, List.all_cons, Bool.and_eq_true] at h
        exact .cons_cons (by simpa [Nat.blt_eq] using h.1) (ih h.2)
  exact hp.imp (fun h => Nat.ne_of_lt h)

/-- R140: the opcodes are distinct. -/
theorem legalOpcodes_nodup : legalOpcodes.Nodup := (nodup_of_zip_tail _ legalOpcodes_sorted).of_map _

theorem lookup_of_mem (op : Byte) (i : Instr) (l : List (Byte × Instr)) (hn : (l.map Prod.fst).Nodup) (h : (op, i) ∈ l) :
    l.lookup op = some i := by
  induction l with
  | nil => simp at h
  | cons p l ih =>
    obtain ⟨q, j⟩ := p
    rw [List.map_cons, List.nodup_cons] at hn
    rw [List.lookup_cons]
    rcases List.mem_cons.mp h with h1 | h1
    · cases h1; simp
    · have hq : op ≠ q := by
        intro hq
        exact hn.1 (hq ▸ List.mem_map.mpr ⟨_, h1, rfl⟩)
      rw [beq_false_of_ne hq]
      exact ih hn.2 h1

/-- R158: a row of the map is what its opcode and operand bytes decode to. -/
theorem decodeByte_of_mem (op b1 b2 : Byte) (i : Instr) (h : (op, i) ∈ legalTable b1 (mkWord b2 b1)) : decodeByte op b1 b2 = i := by
  unfold decodeByte
  rw [lookup_of_mem op i _ (by rw [legalTable_opcodes]; exact legalOpcodes_nodup) h]

/-- R140: "A decoder tells the length from the opcode alone". -/
theorem decodeByte_length (op b1 b2 : Byte) : (decodeByte op b1 b2).length = opcodeLength op := by
  unfold opcodeLength
  rcases decodeByte_cases op b1 b2 with h | h
  · have hs : rowShape (op, decodeByte op b1 b2) ∈ (legalTable 0 (mkWord 0 0)).map rowShape := by
      rw [legalTable_shape, ← legalTable_shape b1 (mkWord b2 b1)]
      exact List.mem_map.mpr ⟨_, h.1, rfl⟩
    obtain ⟨q, hq, he⟩ := List.mem_map.mp hs
    simp only [rowShape, Prod.mk.injEq] at he
    have hm : (op, q.2) ∈ legalTable 0 (mkWord 0 0) := by rw [← he.1]; exact hq
    rw [decodeByte_of_mem op 0 0 q.2 hm, he.2]
  · rcases decodeByte_cases op 0 0 with k | k
    · exact absurd h.1 k.2
    · rw [h.2, k.2]

/-! A row of the map, by its first digit. -/

theorem decodeByte_row0 {op b1 b2 : Byte} {i : Instr} (h : (op, i) ∈ opcodeRow0 b1 (mkWord b2 b1)) : decodeByte op b1 b2 = i :=
  decodeByte_of_mem op b1 b2 i (by simp only [legalTable, List.mem_append]; simp only [h, true_or])

theorem decodeByte_row1 {op b1 b2 : Byte} {i : Instr} (h : (op, i) ∈ opcodeRow1 b1 (mkWord b2 b1)) : decodeByte op b1 b2 = i :=
  decodeByte_of_mem op b1 b2 i (by simp only [legalTable, List.mem_append]; simp only [h, true_or, or_true])

theorem decodeByte_row2 {op b1 b2 : Byte} {i : Instr} (h : (op, i) ∈ opcodeRow2 b1 (mkWord b2 b1)) : decodeByte op b1 b2 = i :=
  decodeByte_of_mem op b1 b2 i (by simp only [legalTable, List.mem_append]; simp only [h, true_or, or_true])

theorem decodeByte_row3 {op b1 b2 : Byte} {i : Instr} (h : (op, i) ∈ opcodeRow3 b1 (mkWord b2 b1)) : decodeByte op b1 b2 = i :=
  decodeByte_of_mem op b1 b2 i (by simp only [legalTable, List.mem_append]; simp only [h, true_or, or_true])

theorem decodeByte_row4 {op b1 b2 : Byte} {i : Instr} (h : (op, i) ∈ opcodeRow4 b1 (mkWord b2 b1)) : decodeByte op b1 b2 = i :=
  decodeByte_of_mem op b1 b2 i (by simp only [legalTable, List.mem_append]; simp only [h, true_or, or_true])

theorem decodeByte_row5 {op b1 b2 : Byte} {i : Instr} (h : (op, i) ∈ opcodeRow5 b1 (mkWord b2 b1)) : decodeByte op b1 b2 = i :=
  decodeByte_of_mem op b1 b2 i (by simp only [legalTable, List.mem_append]; simp only [h, true_or, or_true])

theorem decodeByte_row6 {op b1 b2 : Byte} {i : Instr} (h : (op, i) ∈ opcodeRow6 b1 (mkWord b2 b1)) : decodeByte op b1 b2 = i :=
  decodeByte_of_mem op b1 b2 i (by simp only [legalTable, List.mem_append]; simp only [h, true_or, or_true])

theorem decodeByte_row7 {op b1 b2 : Byte} {i : Instr} (h : (op, i) ∈ opcodeRow7 b1 (mkWord b2 b1)) : decodeByte op b1 b2 = i :=
  decodeByte_of_mem op b1 b2 i (by simp only [legalTable, List.mem_append]; simp only [h, true_or, or_true])

theorem decodeByte_row8 {op b1 b2 : Byte} {i : Instr} (h : (op, i) ∈ opcodeRow8 b1 (mkWord b2 b1)) : decodeByte op b1 b2 = i :=
  decodeByte_of_mem op b1 b2 i (by simp only [legalTable, List.mem_append]; simp only [h, true_or, or_true])

theorem decodeByte_row9 {op b1 b2 : Byte} {i : Instr} (h : (op, i) ∈ opcodeRow9 b1 (mkWord b2 b1)) : decodeByte op b1 b2 = i :=
  decodeByte_of_mem op b1 b2 i (by simp only [legalTable, List.mem_append]; simp only [h, true_or, or_true])

theorem decodeByte_rowA {op b1 b2 : Byte} {i : Instr} (h : (op, i) ∈ opcodeRowA b1 (mkWord b2 b1)) : decodeByte op b1 b2 = i :=
  decodeByte_of_mem op b1 b2 i (by simp only [legalTable, List.mem_append]; simp only [h, true_or, or_true])

theorem decodeByte_rowB {op b1 b2 : Byte} {i : Instr} (h : (op, i) ∈ opcodeRowB b1 (mkWord b2 b1)) : decodeByte op b1 b2 = i :=
  decodeByte_of_mem op b1 b2 i (by simp only [legalTable, List.mem_append]; simp only [h, true_or, or_true])

theorem decodeByte_rowC {op b1 b2 : Byte} {i : Instr} (h : (op, i) ∈ opcodeRowC b1 (mkWord b2 b1)) : decodeByte op b1 b2 = i :=
  decodeByte_of_mem op b1 b2 i (by simp only [legalTable, List.mem_append]; simp only [h, true_or, or_true])

theorem decodeByte_rowD {op b1 b2 : Byte} {i : Instr} (h : (op, i) ∈ opcodeRowD b1 (mkWord b2 b1)) : decodeByte op b1 b2 = i :=
  decodeByte_of_mem op b1 b2 i (by simp only [legalTable, List.mem_append]; simp only [h, true_or, or_true])

theorem decodeByte_rowE {op b1 b2 : Byte} {i : Instr} (h : (op, i) ∈ opcodeRowE b1 (mkWord b2 b1)) : decodeByte op b1 b2 = i :=
  decodeByte_of_mem op b1 b2 i (by simp only [legalTable, List.mem_append]; simp only [h, true_or, or_true])

theorem decodeByte_rowF {op b1 b2 : Byte} {i : Instr} (h : (op, i) ∈ opcodeRowF b1 (mkWord b2 b1)) : decodeByte op b1 b2 = i :=
  decodeByte_of_mem op b1 b2 i (by simp only [legalTable, List.mem_append]; simp only [h, or_true])

end Sys2Proof.Machine
end

