-- ==== Sys2Proof/Laws/Ppu.lean ====
section
/-! SUPPORT. Sys2Proof/Laws/Ppu.lean: what one PPU dot can do, stage by stage: each stage's frame as one equation, and what the whole dot does to the position, the status bits, the NMI flag and the memories. -/

namespace Sys2Proof.Machine

/-- q differs from p in no more than the background renderer's registers, v and the sprite units' shifters and counters. -/
def BackgroundOnly (p q : Ppu) : Prop :=
  q = { p with
        v := q.v, bgLo := q.bgLo, bgHi := q.bgHi, atLo := q.atLo, atHi := q.atHi, atLatchLo := q.atLatchLo
        atLatchHi := q.atLatchHi, ntNext := q.ntNext, atNext := q.atNext, loNext := q.loNext, hiNext := q.hiNext
        sprites := q.sprites }
    ∧ q.sprites.length = p.sprites.length

theorem BackgroundOnly.refl (p : Ppu) : BackgroundOnly p p := ⟨rfl, rfl⟩

theorem BackgroundOnly.trans {p q r : Ppu} (h : BackgroundOnly p q) (k : BackgroundOnly q r) : BackgroundOnly p r := by
  obtain ⟨h1, h2⟩ := h
  obtain ⟨k1, k2⟩ := k
  refine ⟨?_, k2.trans h2⟩
  rw [h1] at k1
  rw [k1]

theorem shiftSprites_only (p : Ppu) : BackgroundOnly p (shiftSprites p) := by
  refine ⟨rfl, ?_⟩
  simp only [shiftSprites, List.length_append, List.length_map, List.length_take, List.length_drop]
  omega

theorem backgroundFetch_only (c : Cartridge) (p : Ppu) : BackgroundOnly p (backgroundFetch c p) := by
  unfold backgroundFetch
  split
  · exact ⟨rfl, rfl⟩
  · exact ⟨rfl, rfl⟩
  · exact ⟨rfl, rfl⟩
  · exact ⟨rfl, rfl⟩
  · split_ifs <;> exact ⟨rfl, rfl⟩
  · exact ⟨rfl, rfl⟩

theorem backgroundWindow_only (c : Cartridge) (p : Ppu) : BackgroundOnly p (backgroundWindow c p) := by
  unfold backgroundWindow
  dsimp only
  have h1 : BackgroundOnly p (if bitAt p.mask 3 then shiftBackground p else p) := by
    split_ifs <;> exact ⟨rfl, rfl⟩
  split_ifs at h1 ⊢
  all_goals first
    | exact (h1.trans (shiftSprites_only _)).trans (backgroundFetch_only c _)
    | exact h1.trans (backgroundFetch_only c _)
    | exact .refl _

theorem backgroundScroll_only (c : Cartridge) (p : Ppu) : BackgroundOnly p (backgroundScroll c p) := by
  unfold backgroundScroll
  dsimp only
  have h1 : BackgroundOnly p (if p.cycle = 256 ∧ renderingEnabled p then { p with v := incrementY p.v } else p) := by
    split_ifs <;> exact ⟨rfl, rfl⟩
  generalize (if p.cycle = 256 ∧ renderingEnabled p then { p with v := incrementY p.v } else p) = p1 at h1 ⊢
  have h2 : BackgroundOnly p1
      (if p1.cycle = 257 then
        if renderingEnabled (loadBackground p1) then
          { loadBackground p1 with v := transferX (loadBackground p1).t (loadBackground p1).v } else loadBackground p1
       else p1) := by
    split_ifs <;> exact ⟨rfl, rfl⟩
  generalize (if p1.cycle = 257 then
        if renderingEnabled (loadBackground p1) then
          { loadBackground p1 with v := transferX (loadBackground p1).t (loadBackground p1).v } else loadBackground p1
       else p1) = p2 at h2 ⊢
  have h3 : BackgroundOnly p2 (if p2.cycle = 338 ∨ p2.cycle = 340 then fetchNametable c p2 else p2) := by
    split_ifs <;> exact ⟨rfl, rfl⟩
  generalize (if p2.cycle = 338 ∨ p2.cycle = 340 then fetchNametable c p2 else p2) = p3 at h3 ⊢
  refine ((h1.trans h2).trans h3).trans ?_
  split_ifs <;> exact ⟨rfl, rfl⟩

/-- R521: `BackgroundStep()` changes nothing else. -/
theorem backgroundStep_only (c : Cartridge) (p : Ppu) : BackgroundOnly p (backgroundStep c p) :=
  (backgroundWindow_only c p).trans (backgroundScroll_only c _)

/-- q differs from p in no more than the sprite units, secondary OAM and the overflow bit. -/
def SpritesOnly (p q : Ppu) : Prop :=
  q = { p with
        secondaryOam := q.secondaryOam, sprite0Next := q.sprite0Next, sprite0Line := q.sprite0Line, sprites := q.sprites
        spriteCount := q.spriteCount, status := q.status }
    ∧ (∀ k, k ≠ 5 → bitAt q.status k = bitAt p.status k)
    ∧ (p.sprites.length = 8 → p.spriteCount ≤ 8 → q.sprites.length = 8 ∧ q.spriteCount ≤ 8)
    ∧ (p.secondaryOam.Ok 32 → q.secondaryOam.Ok 32)

theorem SpritesOnly.refl (p : Ppu) : SpritesOnly p p := ⟨rfl, fun _ _ => rfl, fun h k => ⟨h, k⟩, id⟩

/-- R530: the scan finds at most one sprite an entry and keeps secondary OAM in form. -/
theorem scanEntry_ok (p : Ppu) (acc : SpriteScan) (e : Nat) (h : acc.secondary.Ok 32) : (scanEntry p acc e).secondary.Ok 32 := by
  unfold scanEntry
  dsimp only
  split_ifs with h1 h2
  · exact Memory.writeAll_ok _ _ _ _ (by simp only [List.length_cons, List.length_nil]; omega) h
  · exact h
  · exact h

theorem spriteScan_ok (p : Ppu) : (spriteScan p).secondary.Ok 32 := by
  unfold spriteScan
  have key : ∀ (l : List Nat) (acc : SpriteScan), acc.secondary.Ok 32 → (l.foldl (scanEntry p) acc).secondary.Ok 32 := by
    intro l
    induction l with
    | nil => exact fun _ h => h
    | cons e l ih => exact fun acc h => ih _ (scanEntry_ok p acc e h)
  exact key _ _ (Memory.ofBytes_ok _)

theorem evaluateSprites_only (p : Ppu) : SpritesOnly p (evaluateSprites p) := by
  refine ⟨rfl, ?_, ?_, fun _ => spriteScan_ok p⟩
  · intro k hk
    simp only [evaluateSprites]
    split_ifs
    · rw [bitAt_putBit]
      split_ifs <;> first | rfl | omega | (unfold bitAt; rw [BitVec.getLsbD_of_ge _ _ (by omega)])
    · rfl
  · intro _ _
    simp only [evaluateSprites, List.length_map]
    omega

theorem fetchSprites_only (c : Cartridge) (p : Ppu) : SpritesOnly p (fetchSprites c p) := by
  refine ⟨rfl, fun _ _ => rfl, fun h k => ⟨?_, k⟩, id⟩
  simp only [fetchSprites, List.length_append, List.length_map, List.length_range, List.length_drop]
  omega

/-- R530, R531: `SpriteStep()` changes nothing else. -/
theorem spriteStep_only (c : Cartridge) (p : Ppu) : SpritesOnly p (spriteStep c p) := by
  unfold spriteStep
  split_ifs
  · exact evaluateSprites_only p
  · exact fetchSprites_only c p
  · exact .refl p
  · exact .refl p

/-! ## The whole dot -/

/-- q differs from p in no more than what a dot's work changes: not the position, not the registers the CPU writes, not
nametable, palette or OAM. -/
def DotWork (p q : Ppu) : Prop :=
  q = { p with
        v := q.v, bgLo := q.bgLo, bgHi := q.bgHi, atLo := q.atLo, atHi := q.atHi, atLatchLo := q.atLatchLo
        atLatchHi := q.atLatchHi, ntNext := q.ntNext, atNext := q.atNext, loNext := q.loNext, hiNext := q.hiNext
        secondaryOam := q.secondaryOam, sprite0Next := q.sprite0Next, sprite0Line := q.sprite0Line, sprites := q.sprites
        spriteCount := q.spriteCount, status := q.status, frameComplete := q.frameComplete, frameBuffer := q.frameBuffer
        nmiPending := q.nmiPending, scanlineIrqFlag := q.scanlineIrqFlag }
    ∧ (p.sprites.length = 8 → p.spriteCount ≤ 8 → q.sprites.length = 8 ∧ q.spriteCount ≤ 8)
    ∧ (p.secondaryOam.Ok 32 → q.secondaryOam.Ok 32)

theorem DotWork.refl (p : Ppu) : DotWork p p := ⟨rfl, fun h k => ⟨h, k⟩, id⟩

theorem DotWork.trans {p q r : Ppu} (h : DotWork p q) (k : DotWork q r) : DotWork p r := by
  obtain ⟨h1, h2, h3⟩ := h
  obtain ⟨k1, k2, k3⟩ := k
  refine ⟨?_, fun a b => k2 (h2 a b).1 (h2 a b).2, fun a => k3 (h3 a)⟩
  rw [h1] at k1
  rw [k1]

theorem BackgroundOnly.dotWork {p q : Ppu} (h : BackgroundOnly p q) : DotWork p q := by
  obtain ⟨h1, h2⟩ := h
  refine ⟨?_, ?_, ?_⟩
  · rw [h1]
  · intro a b
    exact ⟨h2.trans a, by rw [h1]; exact b⟩
  · intro a
    rw [h1]
    exact a

theorem SpritesOnly.dotWork {p q : Ppu} (h : SpritesOnly p q) : DotWork p q := by
  obtain ⟨h1, -, h3, h4⟩ := h
  exact ⟨by rw [h1], h3, h4⟩

theorem preRenderClear_dotWork (p : Ppu) : DotWork p (preRenderClear p) := by
  refine ⟨rfl, fun h _ => ⟨?_, Nat.zero_le _⟩, id⟩
  simpa [preRenderClear] using h

theorem renderLine_dotWork (c : Cartridge) (p : Ppu) : DotWork p (renderLine c p) := by
  have h1 : DotWork p (if p.scanline = -1 ∧ p.cycle = 1 then preRenderClear p else p) := by
    split_ifs
    · exact preRenderClear_dotWork p
    · exact .refl p
  unfold renderLine
  dsimp only
  generalize (if p.scanline = -1 ∧ p.cycle = 1 then preRenderClear p else p) = p1 at h1 ⊢
  have h2 := (h1.trans (backgroundStep_only c p1).dotWork).trans (spriteStep_only c (backgroundStep c p1)).dotWork
  split_ifs
  · exact h2.trans ⟨rfl, fun h k => ⟨h, k⟩, id⟩
  · exact h2
  · exact .refl p

theorem outputPixel_dotWork (c : Cartridge) (p : Ppu) : DotWork p (outputPixel c p) := ⟨rfl, fun h k => ⟨h, k⟩, id⟩

theorem dotEvents_dotWork (c : Cartridge) (p : Ppu) : DotWork p (dotEvents c p) := by
  have h1 : DotWork p (if p.scanline = 241 ∧ p.cycle = 1 then vblankStart p else p) := by
    split_ifs
    · exact ⟨rfl, fun h k => ⟨h, k⟩, id⟩
    · exact .refl p
  unfold dotEvents
  dsimp only
  generalize (if p.scanline = 241 ∧ p.cycle = 1 then vblankStart p else p) = p1 at h1 ⊢
  split_ifs
  · exact h1.trans (outputPixel_dotWork c p1)
  · exact h1

/-- The work of the dot at p's position, the skip of (0, 0) done, before the position moves on. -/
def dotWorkOf (c : Cartridge) (p : Ppu) : Ppu := dotEvents c (renderLine c (skipDot p))

theorem dotWorkOf_work (c : Cartridge) (p : Ppu) : DotWork (skipDot p) (dotWorkOf c p) :=
  (renderLine_dotWork c _).trans (dotEvents_dotWork c _)

theorem ppuDot_eq (c : Cartridge) (p : Ppu) : ppuDot c p = advanceDot (dotWorkOf c p) := rfl

theorem DotWork.cycle {p q : Ppu} (h : DotWork p q) : q.cycle = p.cycle := by rw [h.1]
theorem DotWork.scanline {p q : Ppu} (h : DotWork p q) : q.scanline = p.scanline := by rw [h.1]
theorem DotWork.oddFrame {p q : Ppu} (h : DotWork p q) : q.oddFrame = p.oddFrame := by rw [h.1]
theorem DotWork.ctrl {p q : Ppu} (h : DotWork p q) : q.ctrl = p.ctrl := by rw [h.1]
theorem DotWork.mask {p q : Ppu} (h : DotWork p q) : q.mask = p.mask := by rw [h.1]

theorem skipDot_scanline (p : Ppu) : (skipDot p).scanline = p.scanline := by unfold skipDot; split_ifs <;> rfl
theorem skipDot_oddFrame (p : Ppu) : (skipDot p).oddFrame = p.oddFrame := by unfold skipDot; split_ifs <;> rfl

/-- R513: where a dot leaves the position. -/
theorem ppuDot_position (c : Cartridge) (p : Ppu) :
    (ppuDot c p).cycle = (if (skipDot p).cycle = 340 then 0 else (skipDot p).cycle + 1)
      ∧ (ppuDot c p).scanline =
          (if (skipDot p).cycle = 340 then (if p.scanline = 260 then -1 else p.scanline + 1) else p.scanline)
      ∧ (ppuDot c p).oddFrame = (p.oddFrame ^^ decide (p.scanline = 260 ∧ (skipDot p).cycle = 340)) := by
  have h := dotWorkOf_work c p
  have hc := h.cycle
  have hs := h.scanline.trans (skipDot_scanline p)
  have ho := h.oddFrame.trans (skipDot_oddFrame p)
  rw [ppuDot_eq]
  unfold advanceDot
  rw [hc, hs, ho]
  by_cases h1 : (skipDot p).cycle = 340
  · by_cases h2 : p.scanline = 260
    · simp [h1, h2]
    · have : ¬ p.scanline + 1 = 261 := by omega
      simp [h1, h2, this]
  · have : ¬ (skipDot p).cycle + 1 = 341 := by omega
    simp [h1]

/-- A dot changes no register the CPU writes and no memory of the PPU but secondary OAM and the frame buffer. -/
theorem ppuDot_frame (c : Cartridge) (p : Ppu) :
    let q := ppuDot c p
    q.ctrl = p.ctrl ∧ q.mask = p.mask ∧ q.t = p.t ∧ q.fineX = p.fineX ∧ q.w = p.w ∧ q.dataBuffer = p.dataBuffer
      ∧ q.oamAddr = p.oamAddr ∧ q.nametable = p.nametable ∧ q.palette = p.palette ∧ q.oam = p.oam := by
  have h := (dotWorkOf_work c p).1
  have e : ∀ r : Ppu, (advanceDot r).ctrl = r.ctrl ∧ (advanceDot r).mask = r.mask ∧ (advanceDot r).t = r.t
      ∧ (advanceDot r).fineX = r.fineX ∧ (advanceDot r).w = r.w ∧ (advanceDot r).dataBuffer = r.dataBuffer
      ∧ (advanceDot r).oamAddr = r.oamAddr ∧ (advanceDot r).nametable = r.nametable ∧ (advanceDot r).palette = r.palette
      ∧ (advanceDot r).oam = r.oam := by
    intro r
    unfold advanceDot
    split_ifs <;> exact ⟨rfl, rfl, rfl, rfl, rfl, rfl, rfl, rfl, rfl, rfl⟩
  have k : ∀ r : Ppu, (skipDot r).ctrl = r.ctrl ∧ (skipDot r).mask = r.mask ∧ (skipDot r).t = r.t
      ∧ (skipDot r).fineX = r.fineX ∧ (skipDot r).w = r.w ∧ (skipDot r).dataBuffer = r.dataBuffer
      ∧ (skipDot r).oamAddr = r.oamAddr ∧ (skipDot r).nametable = r.nametable ∧ (skipDot r).palette = r.palette
      ∧ (skipDot r).oam = r.oam := by
    intro r
    unfold skipDot
    split_ifs <;> exact ⟨rfl, rfl, rfl, rfl, rfl, rfl, rfl, rfl, rfl, rfl⟩
  dsimp only
  rw [ppuDot_eq]
  obtain ⟨e1, e2, e3, e4, e5, e6, e7, e8, e9, e10⟩ := e (dotWorkOf c p)
  obtain ⟨k1, k2, k3, k4, k5, k6, k7, k8, k9, k10⟩ := k p
  refine ⟨?_, ?_, ?_, ?_, ?_, ?_, ?_, ?_, ?_, ?_⟩
  · rw [e1, h]; exact k1
  · rw [e2, h]; exact k2
  · rw [e3, h]; exact k3
  · rw [e4, h]; exact k4
  · rw [e5, h]; exact k5
  · rw [e6, h]; exact k6
  · rw [e7, h]; exact k7
  · rw [e8, h]; exact k8
  · rw [e9, h]; exact k9
  · rw [e10, h]; exact k10

/-- R52, R530: the sprite units and secondary OAM stay in form. -/
theorem ppuDot_sprites (c : Cartridge) (p : Ppu) :
    (p.sprites.length = 8 → p.spriteCount ≤ 8 → (ppuDot c p).sprites.length = 8 ∧ (ppuDot c p).spriteCount ≤ 8)
      ∧ (p.secondaryOam.Ok 32 → (ppuDot c p).secondaryOam.Ok 32) := by
  have h := (dotWorkOf_work c p).2
  have e : ∀ r : Ppu, (advanceDot r).sprites = r.sprites ∧ (advanceDot r).spriteCount = r.spriteCount
      ∧ (advanceDot r).secondaryOam = r.secondaryOam := by
    intro r; unfold advanceDot; split_ifs <;> exact ⟨rfl, rfl, rfl⟩
  have k : ∀ r : Ppu, (skipDot r).sprites = r.sprites ∧ (skipDot r).spriteCount = r.spriteCount
      ∧ (skipDot r).secondaryOam = r.secondaryOam := by
    intro r; unfold skipDot; split_ifs <;> exact ⟨rfl, rfl, rfl⟩
  rw [ppuDot_eq, (e _).1, (e _).2.1, (e _).2.2]
  rw [(k p).1, (k p).2.1, (k p).2.2] at h
  exact h

/-- The bits, flags and pixels the stages of a dot before its events leave alone. -/
theorem renderLine_events (c : Cartridge) (p : Ppu) (h : ¬ (p.scanline = -1 ∧ p.cycle = 1)) :
    bitAt (renderLine c p).status 7 = bitAt p.status 7 ∧ (renderLine c p).nmiPending = p.nmiPending
      ∧ (renderLine c p).frameComplete = p.frameComplete ∧ (renderLine c p).frameBuffer = p.frameBuffer := by
  have hb := (backgroundStep_only c p).1
  have hs := spriteStep_only c (backgroundStep c p)
  have key : bitAt (spriteStep c (backgroundStep c p)).status 7 = bitAt p.status 7
      ∧ (spriteStep c (backgroundStep c p)).nmiPending = p.nmiPending
      ∧ (spriteStep c (backgroundStep c p)).frameComplete = p.frameComplete
      ∧ (spriteStep c (backgroundStep c p)).frameBuffer = p.frameBuffer := by
    refine ⟨?_, ?_, ?_, ?_⟩
    · rw [hs.2.1 7 (by decide), hb]
    · rw [hs.1, hb]
    · rw [hs.1, hb]
    · rw [hs.1, hb]
  unfold renderLine
  dsimp only
  rw [if_neg h]
  split_ifs
  · exact key
  · exact key
  · exact ⟨rfl, rfl, rfl, rfl⟩

end Sys2Proof.Machine
end

