-- ==== Sys2Proof/Laws/Kept.lean ====
section
/-! SUPPORT. Sys2Proof/Laws/Kept.lean: what the updates a step is made of leave alone in the cartridge, the PPU's memories and the APU, part by part: the pieces of the machine's invariant. -/

namespace Sys2Proof.Machine

/-! ## The cartridge -/

/-- d is c after something a program can do: ROM, sizes and header kept, CHR written in its RAM part alone, both memories in form. -/
structure CartKept (c d : Cartridge) : Prop where
  header : d.header = c.header
  variant : d.variant = c.variant
  prgRom : d.prgRom = c.prgRom
  prgSize : d.prgSize = c.prgSize
  chrSize : d.chrSize = c.chrSize
  chrRamFrom : d.chrRamFrom = c.chrRamFrom
  rom : ∀ k, k < c.chrRamFrom → d.chr.read k = c.chr.read k
  chr : 0 < c.chrSize → c.chr.Ok c.chrSize → d.chr.Ok c.chrSize
  prgRam : c.prgRam.Ok 8192 → d.prgRam.Ok 8192

theorem CartKept.refl (c : Cartridge) : CartKept c c :=
  ⟨rfl, rfl, rfl, rfl, rfl, rfl, fun _ _ => rfl, fun _ h => h, id⟩

theorem CartKept.trans {c d e : Cartridge} (h : CartKept c d) (k : CartKept d e) : CartKept c e where
  header := k.header.trans h.header
  variant := k.variant.trans h.variant
  prgRom := k.prgRom.trans h.prgRom
  prgSize := k.prgSize.trans h.prgSize
  chrSize := k.chrSize.trans h.chrSize
  chrRamFrom := k.chrRamFrom.trans h.chrRamFrom
  rom := fun j hj => (k.rom j (by rw [h.chrRamFrom]; exact hj)).trans (h.rom j hj)
  chr := fun hp hc => by
    have := k.chr
    rw [h.chrSize] at this
    exact this hp (h.chr hp hc)
  prgRam := fun hr => k.prgRam (h.prgRam hr)

/-- A cartridge that differs in its mirroring and its mapper registers alone. -/
theorem CartKept.regs (c : Cartridge) (m : MapperRegs) (r : Mirroring) : CartKept c { c with mapper := m, mirroring := r } :=
  ⟨rfl, rfl, rfl, rfl, rfl, rfl, fun _ _ => rfl, fun _ h => h, id⟩

theorem cpuMapWrite_kept (c : Cartridge) (a : Word) (d : Byte) : CartKept c (cpuMapWrite c a d) := by
  obtain ⟨m, r, h⟩ := cpuMapWrite_eq c a d
  rw [h]
  exact .regs c m r

theorem chrWrite_kept (c : Cartridge) (a : PpuAddr) (d : Byte) : CartKept c (chrWrite c a d) := by
  unfold chrWrite
  split
  · rename_i off _
    split_ifs with h
    · refine ⟨rfl, rfl, rfl, rfl, rfl, rfl, fun k hk => ?_, fun hp hc => ?_, id⟩
      · have h' : c.chrRamFrom ≤ off % c.chrSize := by simpa [chrWritable] using h
        exact Memory.read_write_other _ _ _ _ (by omega)
      · exact Memory.write_ok _ _ _ _ (Nat.mod_lt _ hp) hc
    · exact .refl c
  · exact .refl c

/-- R500: everything a PPU register write can do. -/
inductive RegWriteCase (d : Byte) (c : Cartridge) (p : Ppu) : Ppu × Cartridge → Prop
  | ctrl : RegWriteCase d c p (writeCtrl d p, c)
  | mask : RegWriteCase d c p (writeMask d p, c)
  | oamAddr : RegWriteCase d c p (writeOamAddr d p, c)
  | oamData : RegWriteCase d c p (writeOamData d p, c)
  | scroll : RegWriteCase d c p (writeScroll d p, c)
  | addr : RegWriteCase d c p (writeAddr d p, c)
  | chr : RegWriteCase d c p ({ p with v := nextV p }, chrWrite c (vAddr p) d)
  | vram : RegWriteCase d c p ({ vramWrite c.mirroring (vAddr p) d p with v := nextV p }, c)
  | nothing : RegWriteCase d c p (p, c)

theorem ppuRegWrite_cases (r : Nat) (d : Byte) (c : Cartridge) (p : Ppu) : RegWriteCase d c p (ppuRegWrite r d c p) := by
  unfold ppuRegWrite
  by_cases h0 : r = 0
  · rw [if_pos h0]; exact .ctrl
  rw [if_neg h0]
  by_cases h1 : r = 1
  · rw [if_pos h1]; exact .mask
  rw [if_neg h1]
  by_cases h3 : r = 3
  · rw [if_pos h3]; exact .oamAddr
  rw [if_neg h3]
  by_cases h4 : r = 4
  · rw [if_pos h4]; exact .oamData
  rw [if_neg h4]
  by_cases h5 : r = 5
  · rw [if_pos h5]; exact .scroll
  rw [if_neg h5]
  by_cases h6 : r = 6
  · rw [if_pos h6]; exact .addr
  rw [if_neg h6]
  by_cases h7 : r = 7
  · rw [if_pos h7]
    unfold writeData ppuWrite
    by_cases hc : (vAddr p).toNat < 0x2000
    · rw [if_pos hc]; exact .chr
    · rw [if_neg hc]; exact .vram
  rw [if_neg h7]
  exact .nothing

theorem ppuRegWrite_kept (r : Nat) (d : Byte) (c : Cartridge) (p : Ppu) : CartKept c (ppuRegWrite r d c p).2 := by
  have h := ppuRegWrite_cases r d c p
  generalize ppuRegWrite r d c p = q at h
  cases h
  case chr => exact chrWrite_kept c _ _
  all_goals exact .refl c

theorem mapperScanlineTick_kept (c : Cartridge) : CartKept c (mapperScanlineTick c) := .regs c _ c.mirroring

theorem mapperCpuTick_kept (c : Cartridge) : CartKept c (mapperCpuTick c) := .regs c _ c.mirroring

/-- A bus write keeps the cartridge's ROM, and PRG RAM's form. -/
theorem busWrite_cart (a : Word) (v : Byte) (s : State) : CartKept s.cart (busWrite a v s).cart := by
  have h := busWrite_cases a v s
  generalize busWrite a v s = t at h
  cases h
  case ppu => exact ppuRegWrite_kept _ _ _ _
  case mapper => exact cpuMapWrite_kept _ _ _
  case prgRam h k hk =>
    refine ⟨rfl, rfl, rfl, rfl, rfl, rfl, fun _ _ => rfl, fun _ h => h, fun hr => ?_⟩
    exact Memory.write_ok _ _ _ _ (by have := h.2; omega) hr
  all_goals exact .refl _

/-! ## The PPU's memories -/

theorem getField_lt {n : Nat} (v : BitVec n) (lo w : Nat) : (getField v lo w).toNat < 2 ^ w := (getField v lo w).isLt

theorem ntIndex_lt (m : Mirroring) (a : PpuAddr) : ntIndex m a < 4096 := by
  have h := getField_lt a 0 10
  have hq := (getField a 10 2).isLt
  unfold ntIndex nametableBank
  cases m <;> dsimp only <;> (try split_ifs) <;> omega

theorem palIndex_lt (a : PpuAddr) : palIndex a < 32 := by
  have h := getField_lt a 0 5
  unfold palIndex
  dsimp only
  split_ifs <;> omega

/-- A PPU register write keeps nametable, palette and OAM in form, and everything the renderer owns. -/
theorem ppuRegWrite_ok (r : Nat) (d : Byte) (c : Cartridge) (p : Ppu) :
    let q := (ppuRegWrite r d c p).1
    (p.nametable.Ok 4096 → q.nametable.Ok 4096) ∧ (p.palette.Ok 32 → q.palette.Ok 32) ∧ (p.oam.Ok 256 → q.oam.Ok 256)
      ∧ q.secondaryOam = p.secondaryOam ∧ q.frameBuffer = p.frameBuffer ∧ q.scanline = p.scanline ∧ q.cycle = p.cycle
      ∧ q.sprites = p.sprites ∧ q.spriteCount = p.spriteCount ∧ q.frameComplete = p.frameComplete := by
  have h := ppuRegWrite_cases r d c p
  generalize ppuRegWrite r d c p = q at h
  cases h
  case oamData => exact ⟨id, id, Memory.write_ok _ _ _ _ p.oamAddr.isLt, rfl, rfl, rfl, rfl, rfl, rfl, rfl⟩
  case scroll => unfold writeScroll; cases p.w <;> exact ⟨id, id, id, rfl, rfl, rfl, rfl, rfl, rfl, rfl⟩
  case addr => unfold writeAddr; cases p.w <;> exact ⟨id, id, id, rfl, rfl, rfl, rfl, rfl, rfl, rfl⟩
  case vram =>
    unfold vramWrite
    by_cases hv : (vAddr p).toNat < 0x3F00
    · rw [if_pos hv]
      exact ⟨Memory.write_ok _ _ _ _ (ntIndex_lt _ _), id, id, rfl, rfl, rfl, rfl, rfl, rfl, rfl⟩
    · rw [if_neg hv]
      exact ⟨id, Memory.write_ok _ _ _ _ (palIndex_lt _), id, rfl, rfl, rfl, rfl, rfl, rfl, rfl⟩
  all_goals exact ⟨id, id, id, rfl, rfl, rfl, rfl, rfl, rfl, rfl⟩

/-- A PPU register read keeps every memory and everything the renderer owns. -/
theorem ppuRegRead_ok (r : Nat) (c : Cartridge) (p : Ppu) :
    let q := (ppuRegRead r c p).2
    q.nametable = p.nametable ∧ q.palette = p.palette ∧ q.oam = p.oam ∧ q.secondaryOam = p.secondaryOam
      ∧ q.frameBuffer = p.frameBuffer ∧ q.scanline = p.scanline ∧ q.cycle = p.cycle ∧ q.sprites = p.sprites
      ∧ q.spriteCount = p.spriteCount ∧ q.frameComplete = p.frameComplete := by
  unfold ppuRegRead readStatus readData
  dsimp only
  split_ifs <;> exact ⟨rfl, rfl, rfl, rfl, rfl, rfl, rfl, rfl, rfl, rfl⟩

/-- R513: the position stays on its grid. -/
theorem ppuDot_grid (c : Cartridge) (p : Ppu) (hl : -1 ≤ p.scanline) (hh : p.scanline ≤ 260) (hc : p.cycle ≤ 340) :
    -1 ≤ (ppuDot c p).scanline ∧ (ppuDot c p).scanline ≤ 260 ∧ (ppuDot c p).cycle ≤ 340 := by
  obtain ⟨h1, h2, -⟩ := ppuDot_position c p
  have : (skipDot p).cycle ≤ 340 := by
    unfold skipDot
    split_ifs
    · exact (by decide : (1 : Nat) ≤ 340)
    · exact hc
  rw [h1, h2]
  split_ifs <;> omega

theorem renderLine_frameBuffer (c : Cartridge) (p : Ppu) : (renderLine c p).frameBuffer = p.frameBuffer := by
  have h1 : ∀ q : Ppu, (spriteStep c (backgroundStep c q)).frameBuffer = q.frameBuffer := by
    intro q; rw [(spriteStep_only c _).1, (backgroundStep_only c q).1]
  have h2 : (if p.scanline = -1 ∧ p.cycle = 1 then preRenderClear p else p).frameBuffer = p.frameBuffer := by split_ifs <;> rfl
  unfold renderLine
  dsimp only
  generalize (if p.scanline = -1 ∧ p.cycle = 1 then preRenderClear p else p) = q at h2 ⊢
  split_ifs
  · exact (h1 q).trans h2
  · exact (h1 q).trans h2
  · rfl

/-- R536: the frame buffer stays in form. -/
theorem ppuDot_frameBuffer (c : Cartridge) (p : Ppu) (h : p.frameBuffer.wf ∧ ∀ d ∈ p.frameBuffer, d.1 < 61440) :
    (ppuDot c p).frameBuffer.wf ∧ ∀ d ∈ (ppuDot c p).frameBuffer, d.1 < 61440 := by
  have e : ∀ r : Ppu, (advanceDot r).frameBuffer = r.frameBuffer := by intro r; unfold advanceDot; split_ifs <;> rfl
  have k : ∀ r : Ppu, (skipDot r).frameBuffer = r.frameBuffer := by intro r; unfold skipDot; split_ifs <;> rfl
  have hr : (renderLine c (skipDot p)).frameBuffer = p.frameBuffer := by
    rw [← k p]
    exact renderLine_frameBuffer c _
  rw [ppuDot_eq, e]
  unfold dotWorkOf dotEvents
  dsimp only
  have hs : (renderLine c (skipDot p)).scanline = p.scanline := (renderLine_dotWork c _).scanline.trans (skipDot_scanline p)
  generalize renderLine c (skipDot p) = q at hr hs
  generalize hq1 : (if q.scanline = 241 ∧ q.cycle = 1 then vblankStart q else q) = q1
  have hq2 : q1.frameBuffer = p.frameBuffer := by rw [← hq1]; split_ifs <;> exact hr
  split_ifs with c1
  · refine ⟨FrameBuffer.write_wf _ _ _ (argb_ne_zero _) (by rw [hq2]; exact h.1), fun d hd => ?_⟩
    rcases FrameBuffer.mem_write _ _ _ _ hd with hd | hd
    · rw [hd]; dsimp only; omega
    · rw [hq2] at hd; exact h.2 d hd
  · rw [hq2]; exact h

/-- The position, the end-of-frame mark and the loaded ROM are the PPU's and the host's alone, and nothing but a dot sets VBlank. -/
structure FramePos (p : Ppu) (s : State) : Prop where
  scanline : s.ppu.scanline = p.scanline
  cycle : s.ppu.cycle = p.cycle
  complete : s.ppu.frameComplete = p.frameComplete
  vblank : bitAt s.ppu.status 7 = true → bitAt p.status 7 = true

theorem ppuRegRead_vblank (r : Nat) (c : Cartridge) (p : Ppu) (h : bitAt (ppuRegRead r c p).2.status 7 = true) :
    bitAt p.status 7 = true := by
  revert h
  unfold ppuRegRead readStatus readData
  dsimp only
  split_ifs
  · dsimp only
    rw [bitAt_putBit]
    intro h
    simp at h
  all_goals exact id

theorem ppuRegWrite_status (r : Nat) (d : Byte) (c : Cartridge) (p : Ppu) : (ppuRegWrite r d c p).1.status = p.status := by
  have h := ppuRegWrite_cases r d c p
  generalize ppuRegWrite r d c p = q at h
  cases h
  case scroll => unfold writeScroll; cases p.w <;> rfl
  case addr => unfold writeAddr; cases p.w <;> rfl
  case vram => unfold vramWrite; split_ifs <;> rfl
  all_goals rfl

theorem framePos_slot (p : Ppu) : SlotInvariant (FramePos p) (fun _ => True) where
  read a t h := by
    have k := busRead_cases a t
    generalize Machine.busRead a t = u at k
    cases k
    case ppu =>
      obtain ⟨-, -, -, -, -, e1, e2, -, -, e3⟩ := ppuRegRead_ok (a.toNat % 8) t.cart t.ppu
      exact ⟨e1.trans h.scanline, e2.trans h.cycle, e3.trans h.complete, fun x => h.vblank (ppuRegRead_vblank _ _ _ x)⟩
    all_goals exact ⟨h.scanline, h.cycle, h.complete, h.vblank⟩
  write a v t h := by
    have k := busWrite_cases a v t
    generalize Machine.busWrite a v t = u at k
    cases k
    case ppu =>
      obtain ⟨-, -, -, -, -, e1, e2, -, -, e3⟩ := ppuRegWrite_ok (a.toNat % 8) v t.cart t.ppu
      exact ⟨e1.trans h.scanline, e2.trans h.cycle, e3.trans h.complete,
        fun x => h.vblank (by rw [← ppuRegWrite_status (a.toNat % 8) v t.cart t.ppu]; exact x)⟩
    all_goals exact ⟨h.scanline, h.cycle, h.complete, h.vblank⟩
  cpu _ _ h := ⟨h.scanline, h.cycle, h.complete, h.vblank⟩
  stall _ h := ⟨h.scanline, h.cycle, h.complete, h.vblank⟩
  dmc _ _ _ h := ⟨h.scanline, h.cycle, h.complete, h.vblank⟩
  sequencer _ h := ⟨h.scanline, h.cycle, h.complete, h.vblank⟩
  timers _ h := ⟨h.scanline, h.cycle, h.complete, h.vblank⟩
  output _ h := ⟨h.scanline, h.cycle, h.complete, h.vblank⟩
  eight := trivial
  fewer _ _ _ := trivial
  bits _ _ := trivial
  dma _ _ h := ⟨h.scanline, h.cycle, h.complete, h.vblank⟩
  oam _ _ _ _ h := ⟨h.scanline, h.cycle, h.complete, h.vblank⟩
  unstall _ h := ⟨h.scanline, h.cycle, h.complete, h.vblank⟩
  mapperTick _ h := ⟨h.scanline, h.cycle, h.complete, h.vblank⟩
  noNmi _ h := ⟨h.scanline, h.cycle, h.complete, h.vblank⟩
  noMapperIrq _ h := ⟨h.scanline, h.cycle, h.complete, h.vblank⟩
  slots _ h := ⟨h.scanline, h.cycle, h.complete, h.vblank⟩
  cycles _ h := ⟨h.scanline, h.cycle, h.complete, h.vblank⟩

/-- R430: a step leaves the PPU's position and its end-of-frame mark where its one dot leaves them. -/
theorem step_framePos {s t : State} (ht : step s = .next t) : FramePos (ppuDot s.cart s.ppu) t := by
  refine (framePos_slot _).afterDot ?_ ht
  unfold dotPhase
  dsimp only
  split_ifs <;> exact ⟨rfl, rfl, rfl, id⟩

/-! ## The APU -/

theorem lengthTable_le (k : Nat) : lengthTable.getD k 0 ≤ 254 := by
  by_cases h : k < 32
  · have : ∀ j, j < 32 → lengthTable.getD j 0 ≤ 254 := by decide
    exact this k h
  · have : lengthTable.length = 32 := by decide
    rw [List.getD_eq_default _ _ (by omega)]
    omega

theorem loadLength_le (e : Bool) (d : Byte) (n : Nat) (h : n ≤ 254) : loadLength e d n ≤ 254 := by
  unfold loadLength
  split_ifs
  · exact lengthTable_le _
  · exact h

/-- Length counters and envelopes in range, the frame counter below its period. -/
structure ApuOk (w : FrameWrap) (a : Apu) : Prop where
  p1 : a.pulse1.length ≤ 254
  p2 : a.pulse2.length ≤ 254
  tri : a.triangle.length ≤ 254
  noise : a.noise.length ≤ 254
  d1 : a.pulse1.envelope.decay ≤ 15
  d2 : a.pulse2.envelope.decay ≤ 15
  dn : a.noise.envelope.decay ≤ 15
  frame : a.frame.frameCycle < framePeriod w a.frame.fiveStep

theorem clockEnvelope_le (h : Bool) (e : Envelope) (k : e.decay ≤ 15) : (clockEnvelope h e).decay ≤ 15 := by
  unfold clockEnvelope
  split_ifs <;> dsimp only <;> omega

theorem clockLength_le (h : Bool) (n : Nat) (k : n ≤ 254) : clockLength h n ≤ 254 := by
  unfold clockLength
  split_ifs <;> omega

section
variable {w : FrameWrap} {a : Apu}

theorem quarterFrame_ok (h : ApuOk w a) : ApuOk w (quarterFrame a) :=
  ⟨h.p1, h.p2, h.tri, h.noise, clockEnvelope_le _ _ h.d1, clockEnvelope_le _ _ h.d2, clockEnvelope_le _ _ h.dn, h.frame⟩

theorem halfFrame_ok (h : ApuOk w a) : ApuOk w (halfFrame a) :=
  ⟨clockLength_le _ _ h.p1, clockLength_le _ _ h.p2, clockLength_le _ _ h.tri, clockLength_le _ _ h.noise, h.d1, h.d2, h.dn,
    h.frame⟩

theorem setFrameCycle_ok (h : ApuOk w a) {n : Nat} (hn : n < framePeriod w a.frame.fiveStep) : ApuOk w (setFrameCycle n a) :=
  ⟨h.p1, h.p2, h.tri, h.noise, h.d1, h.d2, h.dn, hn⟩

theorem raiseFrameIrq_ok (h : ApuOk w a) : ApuOk w (raiseFrameIrq a) := ⟨h.p1, h.p2, h.tri, h.noise, h.d1, h.d2, h.dn, h.frame⟩

theorem frameClocks_ok (n : Nat) (h : ApuOk w a) : ApuOk w (frameClocks n a) := by
  unfold frameClocks
  split_ifs
  · exact quarterFrame_ok h
  · exact halfFrame_ok (quarterFrame_ok h)
  · exact quarterFrame_ok h
  · exact halfFrame_ok (quarterFrame_ok h)
  · exact raiseFrameIrq_ok (halfFrame_ok (quarterFrame_ok h))
  · exact h

theorem framePeriod_pos (w : FrameWrap) (five : Bool) : 0 < framePeriod w five := by
  cases w <;> cases five <;> decide

theorem frameTick_ok (h : ApuOk w a) : ApuOk w (frameTick w a) := by
  refine frameClocks_ok _ (setFrameCycle_ok h ?_)
  have hf := h.frame
  have hp := framePeriod_pos w a.frame.fiveStep
  split_ifs <;> omega

end

theorem writeFrameCounter_ok (d : Byte) {w : FrameWrap} {a : Apu} (h : ApuOk w a) : ApuOk w (writeFrameCounter d a) := by
  have h1 : ∀ f : FrameCounter, f.frameCycle = 0 → ApuOk w { a with frame := f } := fun f hf =>
    ⟨h.p1, h.p2, h.tri, h.noise, h.d1, h.d2, h.dn, by dsimp only; rw [hf]; exact framePeriod_pos _ _⟩
  unfold writeFrameCounter
  dsimp only
  split_ifs
  · exact halfFrame_ok (quarterFrame_ok (h1 _ rfl))
  · exact h1 _ rfl

theorem writeApuStatus_ok (d : Byte) {w : FrameWrap} {a : Apu} (h : ApuOk w a) : ApuOk w (writeApuStatus d a) := by
  obtain ⟨h1, h2, h3, h4, h5, h6, h7, h8⟩ := h
  unfold writeApuStatus
  constructor <;> dsimp only <;> first | assumption | (split_ifs <;> first | assumption | (dsimp only; omega))

theorem writeApuChannel_ok (k : Nat) (d : Byte) {w : FrameWrap} {a : Apu} (h : ApuOk w a) : ApuOk w (writeApuChannel k d a) := by
  have hl := fun e n (hn : n ≤ 254) => loadLength_le e d n hn
  obtain ⟨h1, h2, h3, h4, h5, h6, h7, h8⟩ := h
  unfold writeApuChannel writePulse writeTriangle writeNoise writeEnvelope
  split_ifs
  · constructor <;> dsimp only <;> first | assumption | (split <;> first | assumption | exact hl _ _ h1)
  · constructor <;> dsimp only <;> first | assumption | (split <;> first | assumption | exact hl _ _ h2)
  · constructor <;> dsimp only <;> first | assumption | (split <;> first | assumption | exact hl _ _ h3)
  · constructor <;> dsimp only <;> first | assumption | (split <;> first | assumption | exact hl _ _ h4)
  · exact ⟨h1, h2, h3, h4, h5, h6, h7, h8⟩

theorem writeApuChannel_bits (k : Nat) (d : Byte) (a : Apu) :
    (writeApuChannel k d a).dmc.bitsRemaining = a.dmc.bitsRemaining := by
  unfold writeApuChannel writeDmc
  split_ifs
  all_goals first | rfl | (split <;> rfl)

theorem writeApuStatus_bits (d : Byte) (a : Apu) : (writeApuStatus d a).dmc.bitsRemaining = a.dmc.bitsRemaining := by
  unfold writeApuStatus enableDmc
  dsimp only
  split_ifs <;> rfl

theorem writeFrameCounter_bits (d : Byte) (a : Apu) : (writeFrameCounter d a).dmc.bitsRemaining = a.dmc.bitsRemaining := by
  unfold writeFrameCounter
  dsimp only
  split_ifs <;> rfl

theorem resample_ok (c : Config) (n : Nat) {w : FrameWrap} {a : Apu} (h : ApuOk w a) : ApuOk w { resample c a with tickCount := n } := by
  unfold resample
  dsimp only
  split_ifs <;> exact ⟨h.p1, h.p2, h.tri, h.noise, h.d1, h.d2, h.dn, h.frame⟩

theorem stepTriangle_length (t : Triangle) : (stepTriangle t).length = t.length := by unfold stepTriangle; split_ifs <;> rfl

theorem stepPulse_kept (p : Pulse) : (stepPulse p).length = p.length ∧ (stepPulse p).envelope = p.envelope := by
  unfold stepPulse; split_ifs <;> exact ⟨rfl, rfl⟩

theorem stepNoise_kept (x : List Nat) (n : Noise) : (stepNoise x n).length = n.length ∧ (stepNoise x n).envelope = n.envelope := by
  unfold stepNoise; split_ifs <;> exact ⟨rfl, rfl⟩

end Sys2Proof.Machine
end

