-- ==== Sys2Proof/Laws/PerInstr.lean ====
section
/-! SUPPORT. Sys2Proof/Laws/PerInstr.lean: what holds of every instruction as syntax, one lemma per constructor: the bytes of a well-formed instruction are its length's, and they decode to it. -/

namespace Sys2Proof.Laws
open Sys2Proof.Machine (mkWord hiByte loByte)

/-- R140, R158: a well-formed instruction encodes to an opcode and as many operand bytes as its length says, and these decode to it,
whatever follows them. -/
def EncodingShape.Statement (i : Instr) : Prop :=
  i.wf = true → ∃ op b1 b2 : Byte, encode i = [op, b1, b2].take i.length ∧ 1 ≤ i.length ∧ i.length ≤ 3
    ∧ ∀ c1 c2, decodeByte op (if 2 ≤ i.length then b1 else c1) (if 3 ≤ i.length then b2 else c2) = i

/-- A form of one byte. -/
theorem shape1 (i : Instr) (op : Byte) (he : encode i = [op]) (hd : ∀ c1 c2, decodeByte op c1 c2 = i) (hl : i.length = 1) :
    EncodingShape.Statement i := fun _ => ⟨op, 0, 0, by rw [he, hl]; rfl, by omega, by omega, fun c1 c2 => by rw [hd]⟩

/-- A form of two bytes. -/
theorem shape2 (i : Instr) (op b : Byte) (he : encode i = [op, b]) (hd : ∀ c2, decodeByte op b c2 = i) (hl : i.length = 2) :
    EncodingShape.Statement i :=
  fun _ => ⟨op, b, 0, by rw [he, hl]; rfl, by omega, by omega, fun c1 c2 => by rw [if_pos (by omega), hd]⟩

/-- A form of three bytes, with a word operand. -/
theorem shape3 (f : Word → Instr) (op : Byte) (w : Word) (he : encode (f w) = [op, loByte w, hiByte w])
    (hd : ∀ b1 b2, decodeByte op b1 b2 = f (mkWord b2 b1)) (hl : (f w).length = 3) : EncodingShape.Statement (f w) :=
  fun _ => ⟨op, loByte w, hiByte w, by rw [he, hl]; rfl, by omega, by omega, fun c1 c2 => by
    rw [if_pos (by omega), if_pos (by omega), hd, Machine.mkWord_bytes]⟩

/-- A form that no row of the table has. -/
theorem shapeNone (i : Instr) (h : i.wf = false) : EncodingShape.Statement i := fun hw => by rw [h] at hw; cases hw

theorem EncodingShape.lda (o : ReadOperand) : EncodingShape.Statement (.lda o) := by
  cases o
  case imm b => exact shape2 _ 0xA9 b rfl (fun _ => Machine.decodeByte_rowA (List.mem_of_getElem? (i := 7) rfl)) rfl
  case mem m =>
    cases m
    case zp b => exact shape2 _ 0xA5 b rfl (fun _ => Machine.decodeByte_rowA (List.mem_of_getElem? (i := 4) rfl)) rfl
    case zpx b => exact shape2 _ 0xB5 b rfl (fun _ => Machine.decodeByte_rowB (List.mem_of_getElem? (i := 3) rfl)) rfl
    case zpy b => exact shapeNone _ rfl
    case abs w => exact shape3 (fun w => .lda (.mem (.abs w))) 0xAD w rfl (fun _ _ => (Machine.decodeByte_rowA (List.mem_of_getElem? (i := 10) rfl))) rfl
    case absx w => exact shape3 (fun w => .lda (.mem (.absx w))) 0xBD w rfl (fun _ _ => (Machine.decodeByte_rowB (List.mem_of_getElem? (i := 9) rfl))) rfl
    case absy w => exact shape3 (fun w => .lda (.mem (.absy w))) 0xB9 w rfl (fun _ _ => (Machine.decodeByte_rowB (List.mem_of_getElem? (i := 6) rfl))) rfl
    case izx b => exact shape2 _ 0xA1 b rfl (fun _ => Machine.decodeByte_rowA (List.mem_of_getElem? (i := 1) rfl)) rfl
    case izy b => exact shape2 _ 0xB1 b rfl (fun _ => Machine.decodeByte_rowB (List.mem_of_getElem? (i := 1) rfl)) rfl

theorem EncodingShape.ldx (o : ReadOperand) : EncodingShape.Statement (.ldx o) := by
  cases o
  case imm b => exact shape2 _ 0xA2 b rfl (fun _ => Machine.decodeByte_rowA (List.mem_of_getElem? (i := 2) rfl)) rfl
  case mem m =>
    cases m
    case zp b => exact shape2 _ 0xA6 b rfl (fun _ => Machine.decodeByte_rowA (List.mem_of_getElem? (i := 5) rfl)) rfl
    case zpx b => exact shapeNone _ rfl
    case zpy b => exact shape2 _ 0xB6 b rfl (fun _ => Machine.decodeByte_rowB (List.mem_of_getElem? (i := 4) rfl)) rfl
    case abs w => exact shape3 (fun w => .ldx (.mem (.abs w))) 0xAE w rfl (fun _ _ => (Machine.decodeByte_rowA (List.mem_of_getElem? (i := 11) rfl))) rfl
    case absx w => exact shapeNone _ rfl
    case absy w => exact shape3 (fun w => .ldx (.mem (.absy w))) 0xBE w rfl (fun _ _ => (Machine.decodeByte_rowB (List.mem_of_getElem? (i := 10) rfl))) rfl
    case izx b => exact shapeNone _ rfl
    case izy b => exact shapeNone _ rfl

theorem EncodingShape.ldy (o : ReadOperand) : EncodingShape.Statement (.ldy o) := by
  cases o
  case imm b => exact shape2 _ 0xA0 b rfl (fun _ => Machine.decodeByte_rowA (List.mem_of_getElem? (i := 0) rfl)) rfl
  case mem m =>
    cases m
    case zp b => exact shape2 _ 0xA4 b rfl (fun _ => Machine.decodeByte_rowA (List.mem_of_getElem? (i := 3) rfl)) rfl
    case zpx b => exact shape2 _ 0xB4 b rfl (fun _ => Machine.decodeByte_rowB (List.mem_of_getElem? (i := 2) rfl)) rfl
    case zpy b => exact shapeNone _ rfl
    case abs w => exact shape3 (fun w => .ldy (.mem (.abs w))) 0xAC w rfl (fun _ _ => (Machine.decodeByte_rowA (List.mem_of_getElem? (i := 9) rfl))) rfl
    case absx w => exact shape3 (fun w => .ldy (.mem (.absx w))) 0xBC w rfl (fun _ _ => (Machine.decodeByte_rowB (List.mem_of_getElem? (i := 8) rfl))) rfl
    case absy w => exact shapeNone _ rfl
    case izx b => exact shapeNone _ rfl
    case izy b => exact shapeNone _ rfl

theorem EncodingShape.sta (m : MemMode) : EncodingShape.Statement (.sta m) := by
  cases m
  case zp b => exact shape2 _ 0x85 b rfl (fun _ => Machine.decodeByte_row8 (List.mem_of_getElem? (i := 2) rfl)) rfl
  case zpx b => exact shape2 _ 0x95 b rfl (fun _ => Machine.decodeByte_row9 (List.mem_of_getElem? (i := 3) rfl)) rfl
  case zpy b => exact shapeNone _ rfl
  case abs w => exact shape3 (fun w => .sta (.abs w)) 0x8D w rfl (fun _ _ => (Machine.decodeByte_row8 (List.mem_of_getElem? (i := 7) rfl))) rfl
  case absx w => exact shape3 (fun w => .sta (.absx w)) 0x9D w rfl (fun _ _ => (Machine.decodeByte_row9 (List.mem_of_getElem? (i := 8) rfl))) rfl
  case absy w => exact shape3 (fun w => .sta (.absy w)) 0x99 w rfl (fun _ _ => (Machine.decodeByte_row9 (List.mem_of_getElem? (i := 6) rfl))) rfl
  case izx b => exact shape2 _ 0x81 b rfl (fun _ => Machine.decodeByte_row8 (List.mem_of_getElem? (i := 0) rfl)) rfl
  case izy b => exact shape2 _ 0x91 b rfl (fun _ => Machine.decodeByte_row9 (List.mem_of_getElem? (i := 1) rfl)) rfl

theorem EncodingShape.stx (m : MemMode) : EncodingShape.Statement (.stx m) := by
  cases m
  case zp b => exact shape2 _ 0x86 b rfl (fun _ => Machine.decodeByte_row8 (List.mem_of_getElem? (i := 3) rfl)) rfl
  case zpx b => exact shapeNone _ rfl
  case zpy b => exact shape2 _ 0x96 b rfl (fun _ => Machine.decodeByte_row9 (List.mem_of_getElem? (i := 4) rfl)) rfl
  case abs w => exact shape3 (fun w => .stx (.abs w)) 0x8E w rfl (fun _ _ => (Machine.decodeByte_row8 (List.mem_of_getElem? (i := 8) rfl))) rfl
  case absx w => exact shapeNone _ rfl
  case absy w => exact shapeNone _ rfl
  case izx b => exact shapeNone _ rfl
  case izy b => exact shapeNone _ rfl

theorem EncodingShape.sty (m : MemMode) : EncodingShape.Statement (.sty m) := by
  cases m
  case zp b => exact shape2 _ 0x84 b rfl (fun _ => Machine.decodeByte_row8 (List.mem_of_getElem? (i := 1) rfl)) rfl
  case zpx b => exact shape2 _ 0x94 b rfl (fun _ => Machine.decodeByte_row9 (List.mem_of_getElem? (i := 2) rfl)) rfl
  case zpy b => exact shapeNone _ rfl
  case abs w => exact shape3 (fun w => .sty (.abs w)) 0x8C w rfl (fun _ _ => (Machine.decodeByte_row8 (List.mem_of_getElem? (i := 6) rfl))) rfl
  case absx w => exact shapeNone _ rfl
  case absy w => exact shapeNone _ rfl
  case izx b => exact shapeNone _ rfl
  case izy b => exact shapeNone _ rfl

theorem EncodingShape.tax : EncodingShape.Statement .tax := shape1 _ 0xAA rfl (fun _ _ => Machine.decodeByte_rowA (List.mem_of_getElem? (i := 8) rfl)) rfl

theorem EncodingShape.tay : EncodingShape.Statement .tay := shape1 _ 0xA8 rfl (fun _ _ => Machine.decodeByte_rowA (List.mem_of_getElem? (i := 6) rfl)) rfl

theorem EncodingShape.txa : EncodingShape.Statement .txa := shape1 _ 0x8A rfl (fun _ _ => Machine.decodeByte_row8 (List.mem_of_getElem? (i := 5) rfl)) rfl

theorem EncodingShape.tya : EncodingShape.Statement .tya := shape1 _ 0x98 rfl (fun _ _ => Machine.decodeByte_row9 (List.mem_of_getElem? (i := 5) rfl)) rfl

theorem EncodingShape.tsx : EncodingShape.Statement .tsx := shape1 _ 0xBA rfl (fun _ _ => Machine.decodeByte_rowB (List.mem_of_getElem? (i := 7) rfl)) rfl

theorem EncodingShape.txs : EncodingShape.Statement .txs := shape1 _ 0x9A rfl (fun _ _ => Machine.decodeByte_row9 (List.mem_of_getElem? (i := 7) rfl)) rfl

theorem EncodingShape.pha : EncodingShape.Statement .pha := shape1 _ 0x48 rfl (fun _ _ => Machine.decodeByte_row4 (List.mem_of_getElem? (i := 4) rfl)) rfl

theorem EncodingShape.pla : EncodingShape.Statement .pla := shape1 _ 0x68 rfl (fun _ _ => Machine.decodeByte_row6 (List.mem_of_getElem? (i := 4) rfl)) rfl

theorem EncodingShape.php : EncodingShape.Statement .php := shape1 _ 0x08 rfl (fun _ _ => Machine.decodeByte_row0 (List.mem_of_getElem? (i := 4) rfl)) rfl

theorem EncodingShape.plp : EncodingShape.Statement .plp := shape1 _ 0x28 rfl (fun _ _ => Machine.decodeByte_row2 (List.mem_of_getElem? (i := 5) rfl)) rfl

theorem EncodingShape.adc (o : ReadOperand) : EncodingShape.Statement (.adc o) := by
  cases o
  case imm b => exact shape2 _ 0x69 b rfl (fun _ => Machine.decodeByte_row6 (List.mem_of_getElem? (i := 5) rfl)) rfl
  case mem m =>
    cases m
    case zp b => exact shape2 _ 0x65 b rfl (fun _ => Machine.decodeByte_row6 (List.mem_of_getElem? (i := 2) rfl)) rfl
    case zpx b => exact shape2 _ 0x75 b rfl (fun _ => Machine.decodeByte_row7 (List.mem_of_getElem? (i := 2) rfl)) rfl
    case zpy b => exact shapeNone _ rfl
    case abs w => exact shape3 (fun w => .adc (.mem (.abs w))) 0x6D w rfl (fun _ _ => (Machine.decodeByte_row6 (List.mem_of_getElem? (i := 8) rfl))) rfl
    case absx w => exact shape3 (fun w => .adc (.mem (.absx w))) 0x7D w rfl (fun _ _ => (Machine.decodeByte_row7 (List.mem_of_getElem? (i := 6) rfl))) rfl
    case absy w => exact shape3 (fun w => .adc (.mem (.absy w))) 0x79 w rfl (fun _ _ => (Machine.decodeByte_row7 (List.mem_of_getElem? (i := 5) rfl))) rfl
    case izx b => exact shape2 _ 0x61 b rfl (fun _ => Machine.decodeByte_row6 (List.mem_of_getElem? (i := 1) rfl)) rfl
    case izy b => exact shape2 _ 0x71 b rfl (fun _ => Machine.decodeByte_row7 (List.mem_of_getElem? (i := 1) rfl)) rfl

theorem EncodingShape.sbc (o : ReadOperand) : EncodingShape.Statement (.sbc o) := by
  cases o
  case imm b => exact shape2 _ 0xE9 b rfl (fun _ => Machine.decodeByte_rowE (List.mem_of_getElem? (i := 6) rfl)) rfl
  case mem m =>
    cases m
    case zp b => exact shape2 _ 0xE5 b rfl (fun _ => Machine.decodeByte_rowE (List.mem_of_getElem? (i := 3) rfl)) rfl
    case zpx b => exact shape2 _ 0xF5 b rfl (fun _ => Machine.decodeByte_rowF (List.mem_of_getElem? (i := 2) rfl)) rfl
    case zpy b => exact shapeNone _ rfl
    case abs w => exact shape3 (fun w => .sbc (.mem (.abs w))) 0xED w rfl (fun _ _ => (Machine.decodeByte_rowE (List.mem_of_getElem? (i := 9) rfl))) rfl
    case absx w => exact shape3 (fun w => .sbc (.mem (.absx w))) 0xFD w rfl (fun _ _ => (Machine.decodeByte_rowF (List.mem_of_getElem? (i := 6) rfl))) rfl
    case absy w => exact shape3 (fun w => .sbc (.mem (.absy w))) 0xF9 w rfl (fun _ _ => (Machine.decodeByte_rowF (List.mem_of_getElem? (i := 5) rfl))) rfl
    case izx b => exact shape2 _ 0xE1 b rfl (fun _ => Machine.decodeByte_rowE (List.mem_of_getElem? (i := 1) rfl)) rfl
    case izy b => exact shape2 _ 0xF1 b rfl (fun _ => Machine.decodeByte_rowF (List.mem_of_getElem? (i := 1) rfl)) rfl

theorem EncodingShape.and (o : ReadOperand) : EncodingShape.Statement (.and o) := by
  cases o
  case imm b => exact shape2 _ 0x29 b rfl (fun _ => Machine.decodeByte_row2 (List.mem_of_getElem? (i := 6) rfl)) rfl
  case mem m =>
    cases m
    case zp b => exact shape2 _ 0x25 b rfl (fun _ => Machine.decodeByte_row2 (List.mem_of_getElem? (i := 3) rfl)) rfl
    case zpx b => exact shape2 _ 0x35 b rfl (fun _ => Machine.decodeByte_row3 (List.mem_of_getElem? (i := 2) rfl)) rfl
    case zpy b => exact shapeNone _ rfl
    case abs w => exact shape3 (fun w => .and (.mem (.abs w))) 0x2D w rfl (fun _ _ => (Machine.decodeByte_row2 (List.mem_of_getElem? (i := 9) rfl))) rfl
    case absx w => exact shape3 (fun w => .and (.mem (.absx w))) 0x3D w rfl (fun _ _ => (Machine.decodeByte_row3 (List.mem_of_getElem? (i := 6) rfl))) rfl
    case absy w => exact shape3 (fun w => .and (.mem (.absy w))) 0x39 w rfl (fun _ _ => (Machine.decodeByte_row3 (List.mem_of_getElem? (i := 5) rfl))) rfl
    case izx b => exact shape2 _ 0x21 b rfl (fun _ => Machine.decodeByte_row2 (List.mem_of_getElem? (i := 1) rfl)) rfl
    case izy b => exact shape2 _ 0x31 b rfl (fun _ => Machine.decodeByte_row3 (List.mem_of_getElem? (i := 1) rfl)) rfl

theorem EncodingShape.ora (o : ReadOperand) : EncodingShape.Statement (.ora o) := by
  cases o
  case imm b => exact shape2 _ 0x09 b rfl (fun _ => Machine.decodeByte_row0 (List.mem_of_getElem? (i := 5) rfl)) rfl
  case mem m =>
    cases m
    case zp b => exact shape2 _ 0x05 b rfl (fun _ => Machine.decodeByte_row0 (List.mem_of_getElem? (i := 2) rfl)) rfl
    case zpx b => exact shape2 _ 0x15 b rfl (fun _ => Machine.decodeByte_row1 (List.mem_of_getElem? (i := 2) rfl)) rfl
    case zpy b => exact shapeNone _ rfl
    case abs w => exact shape3 (fun w => .ora (.mem (.abs w))) 0x0D w rfl (fun _ _ => (Machine.decodeByte_row0 (List.mem_of_getElem? (i := 7) rfl))) rfl
    case absx w => exact shape3 (fun w => .ora (.mem (.absx w))) 0x1D w rfl (fun _ _ => (Machine.decodeByte_row1 (List.mem_of_getElem? (i := 6) rfl))) rfl
    case absy w => exact shape3 (fun w => .ora (.mem (.absy w))) 0x19 w rfl (fun _ _ => (Machine.decodeByte_row1 (List.mem_of_getElem? (i := 5) rfl))) rfl
    case izx b => exact shape2 _ 0x01 b rfl (fun _ => Machine.decodeByte_row0 (List.mem_of_getElem? (i := 1) rfl)) rfl
    case izy b => exact shape2 _ 0x11 b rfl (fun _ => Machine.decodeByte_row1 (List.mem_of_getElem? (i := 1) rfl)) rfl

theorem EncodingShape.eor (o : ReadOperand) : EncodingShape.Statement (.eor o) := by
  cases o
  case imm b => exact shape2 _ 0x49 b rfl (fun _ => Machine.decodeByte_row4 (List.mem_of_getElem? (i := 5) rfl)) rfl
  case mem m =>
    cases m
    case zp b => exact shape2 _ 0x45 b rfl (fun _ => Machine.decodeByte_row4 (List.mem_of_getElem? (i := 2) rfl)) rfl
    case zpx b => exact shape2 _ 0x55 b rfl (fun _ => Machine.decodeByte_row5 (List.mem_of_getElem? (i := 2) rfl)) rfl
    case zpy b => exact shapeNone _ rfl
    case abs w => exact shape3 (fun w => .eor (.mem (.abs w))) 0x4D w rfl (fun _ _ => (Machine.decodeByte_row4 (List.mem_of_getElem? (i := 8) rfl))) rfl
    case absx w => exact shape3 (fun w => .eor (.mem (.absx w))) 0x5D w rfl (fun _ _ => (Machine.decodeByte_row5 (List.mem_of_getElem? (i := 6) rfl))) rfl
    case absy w => exact shape3 (fun w => .eor (.mem (.absy w))) 0x59 w rfl (fun _ _ => (Machine.decodeByte_row5 (List.mem_of_getElem? (i := 5) rfl))) rfl
    case izx b => exact shape2 _ 0x41 b rfl (fun _ => Machine.decodeByte_row4 (List.mem_of_getElem? (i := 1) rfl)) rfl
    case izy b => exact shape2 _ 0x51 b rfl (fun _ => Machine.decodeByte_row5 (List.mem_of_getElem? (i := 1) rfl)) rfl

theorem EncodingShape.bit (m : MemMode) : EncodingShape.Statement (.bit m) := by
  cases m
  case zp b => exact shape2 _ 0x24 b rfl (fun _ => Machine.decodeByte_row2 (List.mem_of_getElem? (i := 2) rfl)) rfl
  case zpx b => exact shapeNone _ rfl
  case zpy b => exact shapeNone _ rfl
  case abs w => exact shape3 (fun w => .bit (.abs w)) 0x2C w rfl (fun _ _ => (Machine.decodeByte_row2 (List.mem_of_getElem? (i := 8) rfl))) rfl
  case absx w => exact shapeNone _ rfl
  case absy w => exact shapeNone _ rfl
  case izx b => exact shapeNone _ rfl
  case izy b => exact shapeNone _ rfl

theorem EncodingShape.cmp (o : ReadOperand) : EncodingShape.Statement (.cmp o) := by
  cases o
  case imm b => exact shape2 _ 0xC9 b rfl (fun _ => Machine.decodeByte_rowC (List.mem_of_getElem? (i := 6) rfl)) rfl
  case mem m =>
    cases m
    case zp b => exact shape2 _ 0xC5 b rfl (fun _ => Machine.decodeByte_rowC (List.mem_of_getElem? (i := 3) rfl)) rfl
    case zpx b => exact shape2 _ 0xD5 b rfl (fun _ => Machine.decodeByte_rowD (List.mem_of_getElem? (i := 2) rfl)) rfl
    case zpy b => exact shapeNone _ rfl
    case abs w => exact shape3 (fun w => .cmp (.mem (.abs w))) 0xCD w rfl (fun _ _ => (Machine.decodeByte_rowC (List.mem_of_getElem? (i := 9) rfl))) rfl
    case absx w => exact shape3 (fun w => .cmp (.mem (.absx w))) 0xDD w rfl (fun _ _ => (Machine.decodeByte_rowD (List.mem_of_getElem? (i := 6) rfl))) rfl
    case absy w => exact shape3 (fun w => .cmp (.mem (.absy w))) 0xD9 w rfl (fun _ _ => (Machine.decodeByte_rowD (List.mem_of_getElem? (i := 5) rfl))) rfl
    case izx b => exact shape2 _ 0xC1 b rfl (fun _ => Machine.decodeByte_rowC (List.mem_of_getElem? (i := 1) rfl)) rfl
    case izy b => exact shape2 _ 0xD1 b rfl (fun _ => Machine.decodeByte_rowD (List.mem_of_getElem? (i := 1) rfl)) rfl

theorem EncodingShape.cpx (o : ReadOperand) : EncodingShape.Statement (.cpx o) := by
  cases o
  case imm b => exact shape2 _ 0xE0 b rfl (fun _ => Machine.decodeByte_rowE (List.mem_of_getElem? (i := 0) rfl)) rfl
  case mem m =>
    cases m
    case zp b => exact shape2 _ 0xE4 b rfl (fun _ => Machine.decodeByte_rowE (List.mem_of_getElem? (i := 2) rfl)) rfl
    case zpx b => exact shapeNone _ rfl
    case zpy b => exact shapeNone _ rfl
    case abs w => exact shape3 (fun w => .cpx (.mem (.abs w))) 0xEC w rfl (fun _ _ => (Machine.decodeByte_rowE (List.mem_of_getElem? (i := 8) rfl))) rfl
    case absx w => exact shapeNone _ rfl
    case absy w => exact shapeNone _ rfl
    case izx b => exact shapeNone _ rfl
    case izy b => exact shapeNone _ rfl

theorem EncodingShape.cpy (o : ReadOperand) : EncodingShape.Statement (.cpy o) := by
  cases o
  case imm b => exact shape2 _ 0xC0 b rfl (fun _ => Machine.decodeByte_rowC (List.mem_of_getElem? (i := 0) rfl)) rfl
  case mem m =>
    cases m
    case zp b => exact shape2 _ 0xC4 b rfl (fun _ => Machine.decodeByte_rowC (List.mem_of_getElem? (i := 2) rfl)) rfl
    case zpx b => exact shapeNone _ rfl
    case zpy b => exact shapeNone _ rfl
    case abs w => exact shape3 (fun w => .cpy (.mem (.abs w))) 0xCC w rfl (fun _ _ => (Machine.decodeByte_rowC (List.mem_of_getElem? (i := 8) rfl))) rfl
    case absx w => exact shapeNone _ rfl
    case absy w => exact shapeNone _ rfl
    case izx b => exact shapeNone _ rfl
    case izy b => exact shapeNone _ rfl

theorem EncodingShape.inc (m : MemMode) : EncodingShape.Statement (.inc m) := by
  cases m
  case zp b => exact shape2 _ 0xE6 b rfl (fun _ => Machine.decodeByte_rowE (List.mem_of_getElem? (i := 4) rfl)) rfl
  case zpx b => exact shape2 _ 0xF6 b rfl (fun _ => Machine.decodeByte_rowF (List.mem_of_getElem? (i := 3) rfl)) rfl
  case zpy b => exact shapeNone _ rfl
  case abs w => exact shape3 (fun w => .inc (.abs w)) 0xEE w rfl (fun _ _ => (Machine.decodeByte_rowE (List.mem_of_getElem? (i := 10) rfl))) rfl
  case absx w => exact shape3 (fun w => .inc (.absx w)) 0xFE w rfl (fun _ _ => (Machine.decodeByte_rowF (List.mem_of_getElem? (i := 7) rfl))) rfl
  case absy w => exact shapeNone _ rfl
  case izx b => exact shapeNone _ rfl
  case izy b => exact shapeNone _ rfl

theorem EncodingShape.dec (m : MemMode) : EncodingShape.Statement (.dec m) := by
  cases m
  case zp b => exact shape2 _ 0xC6 b rfl (fun _ => Machine.decodeByte_rowC (List.mem_of_getElem? (i := 4) rfl)) rfl
  case zpx b => exact shape2 _ 0xD6 b rfl (fun _ => Machine.decodeByte_rowD (List.mem_of_getElem? (i := 3) rfl)) rfl
  case zpy b => exact shapeNone _ rfl
  case abs w => exact shape3 (fun w => .dec (.abs w)) 0xCE w rfl (fun _ _ => (Machine.decodeByte_rowC (List.mem_of_getElem? (i := 10) rfl))) rfl
  case absx w => exact shape3 (fun w => .dec (.absx w)) 0xDE w rfl (fun _ _ => (Machine.decodeByte_rowD (List.mem_of_getElem? (i := 7) rfl))) rfl
  case absy w => exact shapeNone _ rfl
  case izx b => exact shapeNone _ rfl
  case izy b => exact shapeNone _ rfl

theorem EncodingShape.inx : EncodingShape.Statement .inx := shape1 _ 0xE8 rfl (fun _ _ => Machine.decodeByte_rowE (List.mem_of_getElem? (i := 5) rfl)) rfl

theorem EncodingShape.iny : EncodingShape.Statement .iny := shape1 _ 0xC8 rfl (fun _ _ => Machine.decodeByte_rowC (List.mem_of_getElem? (i := 5) rfl)) rfl

theorem EncodingShape.dex : EncodingShape.Statement .dex := shape1 _ 0xCA rfl (fun _ _ => Machine.decodeByte_rowC (List.mem_of_getElem? (i := 7) rfl)) rfl

theorem EncodingShape.dey : EncodingShape.Statement .dey := shape1 _ 0x88 rfl (fun _ _ => Machine.decodeByte_row8 (List.mem_of_getElem? (i := 4) rfl)) rfl

theorem EncodingShape.asl (o : ShiftOperand) : EncodingShape.Statement (.asl o) := by
  cases o
  case acc => exact shape1 _ 0x0A rfl (fun _ _ => Machine.decodeByte_row0 (List.mem_of_getElem? (i := 6) rfl)) rfl
  case mem m =>
    cases m
    case zp b => exact shape2 _ 0x06 b rfl (fun _ => Machine.decodeByte_row0 (List.mem_of_getElem? (i := 3) rfl)) rfl
    case zpx b => exact shape2 _ 0x16 b rfl (fun _ => Machine.decodeByte_row1 (List.mem_of_getElem? (i := 3) rfl)) rfl
    case zpy b => exact shapeNone _ rfl
    case abs w => exact shape3 (fun w => .asl (.mem (.abs w))) 0x0E w rfl (fun _ _ => (Machine.decodeByte_row0 (List.mem_of_getElem? (i := 8) rfl))) rfl
    case absx w => exact shape3 (fun w => .asl (.mem (.absx w))) 0x1E w rfl (fun _ _ => (Machine.decodeByte_row1 (List.mem_of_getElem? (i := 7) rfl))) rfl
    case absy w => exact shapeNone _ rfl
    case izx b => exact shapeNone _ rfl
    case izy b => exact shapeNone _ rfl

theorem EncodingShape.lsr (o : ShiftOperand) : EncodingShape.Statement (.lsr o) := by
  cases o
  case acc => exact shape1 _ 0x4A rfl (fun _ _ => Machine.decodeByte_row4 (List.mem_of_getElem? (i := 6) rfl)) rfl
  case mem m =>
    cases m
    case zp b => exact shape2 _ 0x46 b rfl (fun _ => Machine.decodeByte_row4 (List.mem_of_getElem? (i := 3) rfl)) rfl
    case zpx b => exact shape2 _ 0x56 b rfl (fun _ => Machine.decodeByte_row5 (List.mem_of_getElem? (i := 3) rfl)) rfl
    case zpy b => exact shapeNone _ rfl
    case abs w => exact shape3 (fun w => .lsr (.mem (.abs w))) 0x4E w rfl (fun _ _ => (Machine.decodeByte_row4 (List.mem_of_getElem? (i := 9) rfl))) rfl
    case absx w => exact shape3 (fun w => .lsr (.mem (.absx w))) 0x5E w rfl (fun _ _ => (Machine.decodeByte_row5 (List.mem_of_getElem? (i := 7) rfl))) rfl
    case absy w => exact shapeNone _ rfl
    case izx b => exact shapeNone _ rfl
    case izy b => exact shapeNone _ rfl

theorem EncodingShape.rol (o : ShiftOperand) : EncodingShape.Statement (.rol o) := by
  cases o
  case acc => exact shape1 _ 0x2A rfl (fun _ _ => Machine.decodeByte_row2 (List.mem_of_getElem? (i := 7) rfl)) rfl
  case mem m =>
    cases m
    case zp b => exact shape2 _ 0x26 b rfl (fun _ => Machine.decodeByte_row2 (List.mem_of_getElem? (i := 4) rfl)) rfl
    case zpx b => exact shape2 _ 0x36 b rfl (fun _ => Machine.decodeByte_row3 (List.mem_of_getElem? (i := 3) rfl)) rfl
    case zpy b => exact shapeNone _ rfl
    case abs w => exact shape3 (fun w => .rol (.mem (.abs w))) 0x2E w rfl (fun _ _ => (Machine.decodeByte_row2 (List.mem_of_getElem? (i := 10) rfl))) rfl
    case absx w => exact shape3 (fun w => .rol (.mem (.absx w))) 0x3E w rfl (fun _ _ => (Machine.decodeByte_row3 (List.mem_of_getElem? (i := 7) rfl))) rfl
    case absy w => exact shapeNone _ rfl
    case izx b => exact shapeNone _ rfl
    case izy b => exact shapeNone _ rfl

theorem EncodingShape.ror (o : ShiftOperand) : EncodingShape.Statement (.ror o) := by
  cases o
  case acc => exact shape1 _ 0x6A rfl (fun _ _ => Machine.decodeByte_row6 (List.mem_of_getElem? (i := 6) rfl)) rfl
  case mem m =>
    cases m
    case zp b => exact shape2 _ 0x66 b rfl (fun _ => Machine.decodeByte_row6 (List.mem_of_getElem? (i := 3) rfl)) rfl
    case zpx b => exact shape2 _ 0x76 b rfl (fun _ => Machine.decodeByte_row7 (List.mem_of_getElem? (i := 3) rfl)) rfl
    case zpy b => exact shapeNone _ rfl
    case abs w => exact shape3 (fun w => .ror (.mem (.abs w))) 0x6E w rfl (fun _ _ => (Machine.decodeByte_row6 (List.mem_of_getElem? (i := 9) rfl))) rfl
    case absx w => exact shape3 (fun w => .ror (.mem (.absx w))) 0x7E w rfl (fun _ _ => (Machine.decodeByte_row7 (List.mem_of_getElem? (i := 7) rfl))) rfl
    case absy w => exact shapeNone _ rfl
    case izx b => exact shapeNone _ rfl
    case izy b => exact shapeNone _ rfl

theorem EncodingShape.bcc (off : Byte) : EncodingShape.Statement (.bcc off) := shape2 _ 0x90 off rfl (fun _ => Machine.decodeByte_row9 (List.mem_of_getElem? (i := 0) rfl)) rfl

theorem EncodingShape.bcs (off : Byte) : EncodingShape.Statement (.bcs off) := shape2 _ 0xB0 off rfl (fun _ => Machine.decodeByte_rowB (List.mem_of_getElem? (i := 0) rfl)) rfl

theorem EncodingShape.beq (off : Byte) : EncodingShape.Statement (.beq off) := shape2 _ 0xF0 off rfl (fun _ => Machine.decodeByte_rowF (List.mem_of_getElem? (i := 0) rfl)) rfl

theorem EncodingShape.bmi (off : Byte) : EncodingShape.Statement (.bmi off) := shape2 _ 0x30 off rfl (fun _ => Machine.decodeByte_row3 (List.mem_of_getElem? (i := 0) rfl)) rfl

theorem EncodingShape.bne (off : Byte) : EncodingShape.Statement (.bne off) := shape2 _ 0xD0 off rfl (fun _ => Machine.decodeByte_rowD (List.mem_of_getElem? (i := 0) rfl)) rfl

theorem EncodingShape.bpl (off : Byte) : EncodingShape.Statement (.bpl off) := shape2 _ 0x10 off rfl (fun _ => Machine.decodeByte_row1 (List.mem_of_getElem? (i := 0) rfl)) rfl

theorem EncodingShape.bvc (off : Byte) : EncodingShape.Statement (.bvc off) := shape2 _ 0x50 off rfl (fun _ => Machine.decodeByte_row5 (List.mem_of_getElem? (i := 0) rfl)) rfl

theorem EncodingShape.bvs (off : Byte) : EncodingShape.Statement (.bvs off) := shape2 _ 0x70 off rfl (fun _ => Machine.decodeByte_row7 (List.mem_of_getElem? (i := 0) rfl)) rfl

theorem EncodingShape.jmp (o : JumpOperand) : EncodingShape.Statement (.jmp o) := by
  cases o
  case abs w => exact shape3 (fun w => .jmp (.abs w)) 0x4C w rfl (fun _ _ => (Machine.decodeByte_row4 (List.mem_of_getElem? (i := 7) rfl))) rfl
  case ind w => exact shape3 (fun w => .jmp (.ind w)) 0x6C w rfl (fun _ _ => (Machine.decodeByte_row6 (List.mem_of_getElem? (i := 7) rfl))) rfl

theorem EncodingShape.jsr (target : Word) : EncodingShape.Statement (.jsr target) := shape3 (fun w => .jsr w) 0x20 target rfl (fun _ _ => (Machine.decodeByte_row2 (List.mem_of_getElem? (i := 0) rfl))) rfl

theorem EncodingShape.rts : EncodingShape.Statement .rts := shape1 _ 0x60 rfl (fun _ _ => Machine.decodeByte_row6 (List.mem_of_getElem? (i := 0) rfl)) rfl

theorem EncodingShape.brk : EncodingShape.Statement .brk := shape1 _ 0x00 rfl (fun _ _ => Machine.decodeByte_row0 (List.mem_of_getElem? (i := 0) rfl)) rfl

theorem EncodingShape.rti : EncodingShape.Statement .rti := shape1 _ 0x40 rfl (fun _ _ => Machine.decodeByte_row4 (List.mem_of_getElem? (i := 0) rfl)) rfl

theorem EncodingShape.clc : EncodingShape.Statement .clc := shape1 _ 0x18 rfl (fun _ _ => Machine.decodeByte_row1 (List.mem_of_getElem? (i := 4) rfl)) rfl

theorem EncodingShape.sec : EncodingShape.Statement .sec := shape1 _ 0x38 rfl (fun _ _ => Machine.decodeByte_row3 (List.mem_of_getElem? (i := 4) rfl)) rfl

theorem EncodingShape.cli : EncodingShape.Statement .cli := shape1 _ 0x58 rfl (fun _ _ => Machine.decodeByte_row5 (List.mem_of_getElem? (i := 4) rfl)) rfl

theorem EncodingShape.sei : EncodingShape.Statement .sei := shape1 _ 0x78 rfl (fun _ _ => Machine.decodeByte_row7 (List.mem_of_getElem? (i := 4) rfl)) rfl

theorem EncodingShape.cld : EncodingShape.Statement .cld := shape1 _ 0xD8 rfl (fun _ _ => Machine.decodeByte_rowD (List.mem_of_getElem? (i := 4) rfl)) rfl

theorem EncodingShape.sed : EncodingShape.Statement .sed := shape1 _ 0xF8 rfl (fun _ _ => Machine.decodeByte_rowF (List.mem_of_getElem? (i := 4) rfl)) rfl

theorem EncodingShape.clv : EncodingShape.Statement .clv := shape1 _ 0xB8 rfl (fun _ _ => Machine.decodeByte_rowB (List.mem_of_getElem? (i := 5) rfl)) rfl

theorem EncodingShape.nop : EncodingShape.Statement .nop := shape1 _ 0xEA rfl (fun _ _ => Machine.decodeByte_rowE (List.mem_of_getElem? (i := 7) rfl)) rfl

theorem EncodingShape.nopIllegal (opcode : Byte) : EncodingShape.Statement (.nopIllegal opcode) := by
  intro hw
  have hm : opcode ∈ illegalOpcodes := by simpa [Instr.wf] using hw
  refine ⟨opcode, 0, 0, rfl, Nat.le_refl 1, (show 1 ≤ 3 by omega), fun c1 c2 => ?_⟩
  rcases Machine.decodeByte_cases opcode c1 c2 with h | h
  · exact absurd hm h.2
  · exact h.2

end Sys2Proof.Laws
end

