-- ==== Sys2Proof/Tests/Slice0.lean ====
section
/-! SUPPORT. Sys2Proof/Tests/Slice0.lean: the model's own tests: ill-formed terms, words written out from the spec's encodings, the vectors of spec/95_test_vectors.md (V numbers) and rows of the spec's tables, and for every statement with hypotheses a state that meets them. -/

set_option Elab.async false

namespace Sys2Proof.Machine.Tests
open Sys2Proof Sys2Proof.Machine

/-! ## WellFormed: an ill-formed term for each check -/

theorem test_illFormed_lda_zpy : (Instr.lda (.mem (.zpy 0x10))).wf = false ∧ encode (Instr.lda (.mem (.zpy 0x10))) = [] := by decide
theorem test_illFormed_ldx_zpx : (Instr.ldx (.mem (.zpx 0x10))).wf = false ∧ encode (Instr.ldx (.mem (.zpx 0x10))) = [] := by decide
theorem test_illFormed_ldy_absy : (Instr.ldy (.mem (.absy 0x1234))).wf = false ∧ encode (Instr.ldy (.mem (.absy 0x1234))) = [] := by decide
theorem test_illFormed_cpx_zpx : (Instr.cpx (.mem (.zpx 0x10))).wf = false ∧ encode (Instr.cpx (.mem (.zpx 0x10))) = [] := by decide
theorem test_illFormed_sta_zpy : (Instr.sta (.zpy 0x10)).wf = false ∧ encode (Instr.sta (.zpy 0x10)) = [] := by decide
theorem test_illFormed_stx_absy : (Instr.stx (.absy 0x1234)).wf = false ∧ encode (Instr.stx (.absy 0x1234)) = [] := by decide
theorem test_illFormed_sty_absx : (Instr.sty (.absx 0x1234)).wf = false ∧ encode (Instr.sty (.absx 0x1234)) = [] := by decide
theorem test_illFormed_bit_izy : (Instr.bit (.izy 0x10)).wf = false ∧ encode (Instr.bit (.izy 0x10)) = [] := by decide
theorem test_illFormed_inc_izx : (Instr.inc (.izx 0x10)).wf = false ∧ encode (Instr.inc (.izx 0x10)) = [] := by decide
theorem test_illFormed_asl_absy : (Instr.asl (.mem (.absy 0x1234))).wf = false ∧ encode (Instr.asl (.mem (.absy 0x1234))) = [] := by decide
theorem test_illFormed_nopIllegal_of_a_legal_opcode : (Instr.nopIllegal 0xEA).wf = false := by decide

/-! ## Decode: a word of every constructor, from the "Encoding" lines of R200 to R308. Byte 0 is written in bits 7..0. -/

theorem test_decode_lda : decodeTableWord 16 0x10A9 = some (.lda (.imm 0x10)) := by decide +kernel
theorem test_decode_ldx : decodeTableWord 16 0x10B6 = some (.ldx (.mem (.zpy 0x10))) := by decide +kernel
theorem test_decode_ldy : decodeTableWord 24 0x1234BC = some (.ldy (.mem (.absx 0x1234))) := by decide +kernel
theorem test_decode_sta : decodeTableWord 16 0x2091 = some (.sta (.izy 0x20)) := by decide +kernel
theorem test_decode_stx : decodeTableWord 24 0x12348E = some (.stx (.abs 0x1234)) := by decide +kernel
theorem test_decode_sty : decodeTableWord 16 0x1094 = some (.sty (.zpx 0x10)) := by decide +kernel
theorem test_decode_tax : decodeTableWord 8 0xAA = some (.tax) := by decide +kernel
theorem test_decode_tay : decodeTableWord 8 0xA8 = some (.tay) := by decide +kernel
theorem test_decode_txa : decodeTableWord 8 0x8A = some (.txa) := by decide +kernel
theorem test_decode_tya : decodeTableWord 8 0x98 = some (.tya) := by decide +kernel
theorem test_decode_tsx : decodeTableWord 8 0xBA = some (.tsx) := by decide +kernel
theorem test_decode_txs : decodeTableWord 8 0x9A = some (.txs) := by decide +kernel
theorem test_decode_pha : decodeTableWord 8 0x48 = some (.pha) := by decide +kernel
theorem test_decode_pla : decodeTableWord 8 0x68 = some (.pla) := by decide +kernel
theorem test_decode_php : decodeTableWord 8 0x08 = some (.php) := by decide +kernel
theorem test_decode_plp : decodeTableWord 8 0x28 = some (.plp) := by decide +kernel
theorem test_decode_adc : decodeTableWord 24 0x02FF7D = some (.adc (.mem (.absx 0x02FF))) := by decide +kernel
theorem test_decode_sbc : decodeTableWord 16 0x20E1 = some (.sbc (.mem (.izx 0x20))) := by decide +kernel
theorem test_decode_and : decodeTableWord 24 0x123439 = some (.and (.mem (.absy 0x1234))) := by decide +kernel
theorem test_decode_ora : decodeTableWord 16 0x1015 = some (.ora (.mem (.zpx 0x10))) := by decide +kernel
theorem test_decode_eor : decodeTableWord 24 0x12344D = some (.eor (.mem (.abs 0x1234))) := by decide +kernel
theorem test_decode_bit : decodeTableWord 24 0x20022C = some (.bit (.abs 0x2002)) := by decide +kernel
theorem test_decode_cmp : decodeTableWord 16 0x20D1 = some (.cmp (.mem (.izy 0x20))) := by decide +kernel
theorem test_decode_cpx : decodeTableWord 16 0x10E4 = some (.cpx (.mem (.zp 0x10))) := by decide +kernel
theorem test_decode_cpy : decodeTableWord 16 0xFFC0 = some (.cpy (.imm 0xFF)) := by decide +kernel
theorem test_decode_inc : decodeTableWord 16 0x10F6 = some (.inc (.zpx 0x10)) := by decide +kernel
theorem test_decode_dec : decodeTableWord 24 0x0300CE = some (.dec (.abs 0x0300)) := by decide +kernel
theorem test_decode_inx : decodeTableWord 8 0xE8 = some (.inx) := by decide +kernel
theorem test_decode_iny : decodeTableWord 8 0xC8 = some (.iny) := by decide +kernel
theorem test_decode_dex : decodeTableWord 8 0xCA = some (.dex) := by decide +kernel
theorem test_decode_dey : decodeTableWord 8 0x88 = some (.dey) := by decide +kernel
theorem test_decode_asl : decodeTableWord 24 0x02001E = some (.asl (.mem (.absx 0x0200))) := by decide +kernel
theorem test_decode_lsr : decodeTableWord 8 0x4A = some (.lsr .acc) := by decide +kernel
theorem test_decode_rol : decodeTableWord 16 0x1026 = some (.rol (.mem (.zp 0x10))) := by decide +kernel
theorem test_decode_ror : decodeTableWord 8 0x6A = some (.ror .acc) := by decide +kernel
theorem test_decode_bcc : decodeTableWord 16 0x7F90 = some (.bcc 0x7F) := by decide +kernel
theorem test_decode_bcs : decodeTableWord 16 0x80B0 = some (.bcs 0x80) := by decide +kernel
theorem test_decode_beq : decodeTableWord 16 0x10F0 = some (.beq 0x10) := by decide +kernel
theorem test_decode_bmi : decodeTableWord 16 0x8030 = some (.bmi 0x80) := by decide +kernel
theorem test_decode_bne : decodeTableWord 16 0xFED0 = some (.bne 0xFE) := by decide +kernel
theorem test_decode_bpl : decodeTableWord 16 0xFB10 = some (.bpl 0xFB) := by decide +kernel
theorem test_decode_bvc : decodeTableWord 16 0x0150 = some (.bvc 0x01) := by decide +kernel
theorem test_decode_bvs : decodeTableWord 16 0x0270 = some (.bvs 0x02) := by decide +kernel
theorem test_decode_jmp : decodeTableWord 24 0x02FF6C = some (.jmp (.ind 0x02FF)) := by decide +kernel
theorem test_decode_jsr : decodeTableWord 24 0xC10020 = some (.jsr 0xC100) := by decide +kernel
theorem test_decode_rts : decodeTableWord 8 0x60 = some (.rts) := by decide +kernel
theorem test_decode_brk : decodeTableWord 8 0x00 = some (.brk) := by decide +kernel
theorem test_decode_rti : decodeTableWord 8 0x40 = some (.rti) := by decide +kernel
theorem test_decode_clc : decodeTableWord 8 0x18 = some (.clc) := by decide +kernel
theorem test_decode_sec : decodeTableWord 8 0x38 = some (.sec) := by decide +kernel
theorem test_decode_cli : decodeTableWord 8 0x58 = some (.cli) := by decide +kernel
theorem test_decode_sei : decodeTableWord 8 0x78 = some (.sei) := by decide +kernel
theorem test_decode_cld : decodeTableWord 8 0xD8 = some (.cld) := by decide +kernel
theorem test_decode_sed : decodeTableWord 8 0xF8 = some (.sed) := by decide +kernel
theorem test_decode_clv : decodeTableWord 8 0xB8 = some (.clv) := by decide +kernel
theorem test_decode_nop : decodeTableWord 8 0xEA = some (.nop) := by decide +kernel
theorem test_decode_nopIllegal : decodeTableWord 8 0x80 = some (.nopIllegal 0x80) := by decide +kernel

theorem test_decode_rejects_a_cut_instruction : decode [0x20, 0x00] = .rejected (.truncated 1) ∧ decode [] = .rejected (.truncated 1) := by
  decide +kernel

/-! ## Instructions: the bytes stored at PC, fetched, decoded and run by one `clock()` -/

/-- The CPU at a boundary. -/
def cpuAt (pc : Word) (a x y sp p : Byte) : Cpu :=
  { a := a, x := x, y := y, sp := sp, pc := pc, p := p, cyclesRemaining := 0, totalCycles := 100, brkUnmasked := false }

/-- The reset System with this CPU and these RAM bytes (index below $0800, byte). -/
def with_ (cpu : Cpu) (mem : List (Nat × Byte)) : State :=
  { State.reset with cpu := cpu, ram := mem.foldl (fun m c => m.write c.1 c.2) [] }

/-- The bytes run as the next instruction; `post` of the next state, and n cycles counted. -/
def runs (s : State) (bytes : List Byte) (n : Nat) (post : State → Bool) : Bool :=
  match clock (placeBytes s.cpu.pc bytes s) with
  | .next t => post t && Nat.beq t.cpu.totalCycles (100 + n) && Nat.beq t.cpu.cyclesRemaining (n - 1)
  | _ => false

/-- The byte a read of RAM index k returns. -/
def ramAt (t : State) (k : Nat) : Byte := t.ram.read k

theorem test_v1_lda_imm :
    runs (with_ (cpuAt 0xC000 0x33 0x00 0x00 0xFD 0x24) []) [0xA9, 0x80] 2
      (fun t => t.cpu.a == 0x80 && t.cpu.p == 0xA4 && t.cpu.pc == 0xC002) = true := by decide +kernel
theorem test_v3_lda_zpx_wraps :
    runs (with_ (cpuAt 0xC000 0x00 0x02 0x00 0xFD 0x24) [(0x0001, 0x99)]) [0xB5, 0xFF] 4
      (fun t => t.cpu.a == 0x99 && t.cpu.p == 0xA4) = true := by decide +kernel
theorem test_v4_ldx_crossing :
    runs (with_ (cpuAt 0xC000 0x00 0x00 0x01 0xFD 0x24) [(0x0300, 0x11)]) [0xBE, 0xFF, 0x02] 5
      (fun t => t.cpu.x == 0x11) = true := by decide +kernel
theorem test_v4_lda_crossing :
    runs (with_ (cpuAt 0xC000 0x00 0x01 0x00 0xFD 0x24) [(0x0300, 0x11)]) [0xBD, 0xFF, 0x02] 5
      (fun t => t.cpu.a == 0x11) = true := by decide +kernel
theorem test_ldy_zpx :
    runs (with_ (cpuAt 0xC000 0x00 0x01 0x00 0xFD 0x24) [(0x0011, 0x00)]) [0xB4, 0x10] 4
      (fun t => t.cpu.y == 0x00 && t.cpu.p == 0x26) = true := by decide +kernel
theorem test_v5_sta_absx_no_penalty :
    runs (with_ (cpuAt 0xC000 0x77 0x01 0x00 0xFD 0x24) []) [0x9D, 0xFF, 0x02] 5
      (fun t => ramAt t 0x300 == 0x77 && t.cpu.p == 0x24) = true := by decide +kernel
theorem test_v6_lda_izx_pointer_wraps :
    runs (with_ (cpuAt 0xC000 0x00 0x01 0x00 0xFD 0x24) [(0x0000, 0x34), (0x0001, 0x12), (0x0234, 0x5C)]) [0xA1, 0xFF] 6
      (fun t => t.cpu.a == 0x5C) = true := by decide +kernel
theorem test_v7_lda_izy_pointer_wraps :
    runs (with_ (cpuAt 0xC000 0x00 0x00 0x20 0xFD 0x24) [(0x00FF, 0xF0), (0x0000, 0x02), (0x0310, 0x5A)]) [0xB1, 0xFF] 6
      (fun t => t.cpu.a == 0x5A) = true := by decide +kernel
theorem test_v8_stx_zpy_wraps :
    runs (with_ (cpuAt 0xC000 0x00 0x05 0xFF 0xFD 0x24) []) [0x96, 0x01] 4
      (fun t => ramAt t 0 == 0x05) = true := by decide +kernel
theorem test_sty_abs_mirror :
    runs (with_ (cpuAt 0xC000 0x00 0x00 0x66 0xFD 0x24) []) [0x8C, 0x01, 0x18] 4
      (fun t => ramAt t 1 == 0x66) = true := by decide +kernel
theorem test_tax :
    runs (with_ (cpuAt 0xC000 0x80 0x00 0x00 0xFD 0x24) []) [0xAA] 2
      (fun t => t.cpu.x == 0x80 && t.cpu.p == 0xA4) = true := by decide +kernel
theorem test_tay :
    runs (with_ (cpuAt 0xC000 0x00 0x00 0x09 0xFD 0x24) []) [0xA8] 2
      (fun t => t.cpu.y == 0x00 && t.cpu.p == 0x26) = true := by decide +kernel
theorem test_txa :
    runs (with_ (cpuAt 0xC000 0x00 0x42 0x00 0xFD 0xA6) []) [0x8A] 2
      (fun t => t.cpu.a == 0x42 && t.cpu.p == 0x24) = true := by decide +kernel
theorem test_tya :
    runs (with_ (cpuAt 0xC000 0x01 0x00 0xFF 0xFD 0x24) []) [0x98] 2
      (fun t => t.cpu.a == 0xFF && t.cpu.p == 0xA4) = true := by decide +kernel
theorem test_v9_tsx :
    runs (with_ (cpuAt 0xC000 0x00 0x00 0x00 0xFD 0x24) []) [0xBA] 2
      (fun t => t.cpu.x == 0xFD && t.cpu.p == 0xA4) = true := by decide +kernel
theorem test_v10_txs :
    runs (with_ (cpuAt 0xC000 0x00 0x00 0x00 0xFD 0x24) []) [0x9A] 2
      (fun t => t.cpu.sp == 0 && t.cpu.p == 0x24) = true := by decide +kernel
theorem test_v11_pha_wraps :
    runs (with_ (cpuAt 0xC000 0x12 0x00 0x00 0x00 0x24) []) [0x48] 3
      (fun t => ramAt t 0x100 == 0x12 && t.cpu.sp == 0xFF) = true := by decide +kernel
theorem test_v12_pla_wraps :
    runs (with_ (cpuAt 0xC000 0x12 0x00 0x00 0xFF 0x24) []) [0x68] 4
      (fun t => t.cpu.a == 0x00 && t.cpu.sp == 0 && t.cpu.p == 0x26) = true := by decide +kernel
theorem test_v13_php :
    runs (with_ (cpuAt 0xC000 0x00 0x00 0x00 0xFD 0xE7) []) [0x08] 3
      (fun t => ramAt t 0x1FD == 0xF7 && t.cpu.p == 0xE7) = true := by decide +kernel
theorem test_v14_plp_zero :
    runs (with_ (cpuAt 0xC000 0x00 0x00 0x00 0xFC 0x24) []) [0x28] 4
      (fun t => t.cpu.p == 0x20 && t.cpu.sp == 0xFD) = true := by decide +kernel
theorem test_v15_plp_ones :
    runs (with_ (cpuAt 0xC000 0x00 0x00 0x00 0xFC 0x24) [(0x01FD, 0xFF)]) [0x28] 4
      (fun t => t.cpu.p == 0xEF) = true := by decide +kernel
theorem test_v20_adc_overflow :
    runs (with_ (cpuAt 0xC000 0x50 0x00 0x00 0xFD 0x24) []) [0x69, 0x50] 2
      (fun t => t.cpu.a == 0xA0 && t.cpu.p == 0xE4) = true := by decide +kernel
theorem test_v24_adc_ignores_decimal :
    runs (with_ (cpuAt 0xC000 0x09 0x00 0x00 0xFD 0x2C) []) [0x69, 0x01] 2
      (fun t => t.cpu.a == 0x0A && t.cpu.p == 0x2C) = true := by decide +kernel
theorem test_v26_sbc_borrow :
    runs (with_ (cpuAt 0xC000 0x00 0x00 0x00 0xFD 0x25) []) [0xE9, 0x01] 2
      (fun t => t.cpu.a == 0xFF && t.cpu.p == 0xA4) = true := by decide +kernel
theorem test_v27_sbc_overflow :
    runs (with_ (cpuAt 0xC000 0x80 0x00 0x00 0xFD 0x25) []) [0xE9, 0x01] 2
      (fun t => t.cpu.a == 0x7F && t.cpu.p == 0x65) = true := by decide +kernel
theorem test_v29_and :
    runs (with_ (cpuAt 0xC000 0xF0 0x00 0x00 0xFD 0x24) []) [0x29, 0x3C] 2
      (fun t => t.cpu.a == 0x30 && t.cpu.p == 0x24) = true := by decide +kernel
theorem test_v30_ora :
    runs (with_ (cpuAt 0xC000 0x00 0x00 0x00 0xFD 0x24) []) [0x09, 0x00] 2
      (fun t => t.cpu.a == 0x00 && t.cpu.p == 0x26) = true := by decide +kernel
theorem test_v31_eor :
    runs (with_ (cpuAt 0xC000 0xFF 0x00 0x00 0xFD 0xA4) []) [0x49, 0xFF] 2
      (fun t => t.cpu.a == 0x00 && t.cpu.p == 0x26) = true := by decide +kernel
theorem test_v32_bit :
    runs (with_ (cpuAt 0xC000 0x01 0x00 0x00 0xFD 0x24) [(0x0010, 0xC0)]) [0x24, 0x10] 3
      (fun t => t.cpu.a == 0x01 && t.cpu.p == 0xE6) = true := by decide +kernel
theorem test_v33_bit :
    runs (with_ (cpuAt 0xC000 0xC0 0x00 0x00 0xFD 0xE4) [(0x0010, 0x3F)]) [0x24, 0x10] 3
      (fun t => t.cpu.p == 0x26) = true := by decide +kernel
theorem test_v34_cmp_equal :
    runs (with_ (cpuAt 0xC000 0x40 0x00 0x00 0xFD 0x24) []) [0xC9, 0x40] 2
      (fun t => t.cpu.p == 0x27) = true := by decide +kernel
theorem test_v35_cmp_less :
    runs (with_ (cpuAt 0xC000 0x10 0x00 0x00 0xFD 0x25) []) [0xC9, 0x20] 2
      (fun t => t.cpu.p == 0xA4) = true := by decide +kernel
theorem test_v37_cpx :
    runs (with_ (cpuAt 0xC000 0x01 0x00 0x00 0xFD 0x24) []) [0xE0, 0x00] 2
      (fun t => t.cpu.p == 0x27) = true := by decide +kernel
theorem test_v38_cpy :
    runs (with_ (cpuAt 0xC000 0xFF 0x00 0x00 0xFD 0x25) []) [0xC0, 0xFF] 2
      (fun t => t.cpu.p == 0x24) = true := by decide +kernel
theorem test_v39_inc :
    runs (with_ (cpuAt 0xC000 0x00 0x00 0x00 0xFD 0x24) [(0x0010, 0xFF)]) [0xE6, 0x10] 5
      (fun t => ramAt t 0x10 == 0 && t.cpu.p == 0x26) = true := by decide +kernel
theorem test_v40_dec :
    runs (with_ (cpuAt 0xC000 0x00 0x00 0x00 0xFD 0x24) []) [0xCE, 0x00, 0x03] 6
      (fun t => ramAt t 0x300 == 0xFF && t.cpu.p == 0xA4) = true := by decide +kernel
theorem test_v41_inx :
    runs (with_ (cpuAt 0xC000 0x00 0xFF 0x00 0xFD 0x24) []) [0xE8] 2
      (fun t => t.cpu.x == 0 && t.cpu.p == 0x26) = true := by decide +kernel
theorem test_iny :
    runs (with_ (cpuAt 0xC000 0x00 0x00 0x7F 0xFD 0x24) []) [0xC8] 2
      (fun t => t.cpu.y == 0x80 && t.cpu.p == 0xA4) = true := by decide +kernel
theorem test_dex :
    runs (with_ (cpuAt 0xC000 0x00 0x01 0x00 0xFD 0x24) []) [0xCA] 2
      (fun t => t.cpu.x == 0 && t.cpu.p == 0x26) = true := by decide +kernel
theorem test_v42_dey :
    runs (with_ (cpuAt 0xC000 0x00 0x00 0x00 0xFD 0x24) []) [0x88] 2
      (fun t => t.cpu.y == 0xFF && t.cpu.p == 0xA4) = true := by decide +kernel
theorem test_v43_asl :
    runs (with_ (cpuAt 0xC000 0x81 0x00 0x00 0xFD 0x24) []) [0x0A] 2
      (fun t => t.cpu.a == 0x02 && t.cpu.p == 0x25) = true := by decide +kernel
theorem test_v44_asl_absx :
    runs (with_ (cpuAt 0xC000 0x00 0x00 0x00 0xFD 0x24) [(0x0200, 0x80)]) [0x1E, 0x00, 0x02] 7
      (fun t => ramAt t 0x200 == 0 && t.cpu.p == 0x27) = true := by decide +kernel
theorem test_v45_lsr :
    runs (with_ (cpuAt 0xC000 0x01 0x00 0x00 0xFD 0x24) []) [0x4A] 2
      (fun t => t.cpu.a == 0x00 && t.cpu.p == 0x27) = true := by decide +kernel
theorem test_v46_rol :
    runs (with_ (cpuAt 0xC000 0x80 0x00 0x00 0xFD 0x24) []) [0x2A] 2
      (fun t => t.cpu.a == 0x00 && t.cpu.p == 0x27) = true := by decide +kernel
theorem test_rol_takes_c :
    runs (with_ (cpuAt 0xC000 0x00 0x00 0x00 0xFD 0x25) [(0x0010, 0x40)]) [0x26, 0x10] 5
      (fun t => ramAt t 0x10 == 0x81 && t.cpu.p == 0xA4) = true := by decide +kernel
theorem test_v47_ror :
    runs (with_ (cpuAt 0xC000 0x01 0x00 0x00 0xFD 0x24) []) [0x6A] 2
      (fun t => t.cpu.a == 0x00 && t.cpu.p == 0x27) = true := by decide +kernel
theorem test_v48_ror_takes_c :
    runs (with_ (cpuAt 0xC000 0x00 0x00 0x00 0xFD 0x25) []) [0x6A] 2
      (fun t => t.cpu.a == 0x80 && t.cpu.p == 0xA4) = true := by decide +kernel
theorem test_v50_beq_not_taken :
    runs (with_ (cpuAt 0xC000 0x00 0x00 0x00 0xFD 0x24) []) [0xF0, 0x10] 2
      (fun t => t.cpu.pc == 0xC002) = true := by decide +kernel
theorem test_v51_beq_taken :
    runs (with_ (cpuAt 0xC000 0x00 0x00 0x00 0xFD 0x26) []) [0xF0, 0x10] 3
      (fun t => t.cpu.pc == 0xC012) = true := by decide +kernel
theorem test_v52_bne_other_page :
    runs (with_ (cpuAt 0xC000 0x00 0x00 0x00 0xFD 0x24) []) [0xD0, 0xFC] 4
      (fun t => t.cpu.pc == 0xBFFE) = true := by decide +kernel
theorem test_v53_beq_page_of_the_next :
    runs (with_ (cpuAt 0xC0FE 0x00 0x00 0x00 0xFD 0x26) []) [0xF0, 0x00] 3
      (fun t => t.cpu.pc == 0xC100) = true := by decide +kernel
theorem test_v55_bmi_back :
    runs (with_ (cpuAt 0xC010 0x00 0x00 0x00 0xFD 0xA4) []) [0x30, 0x80] 4
      (fun t => t.cpu.pc == 0xBF92) = true := by decide +kernel
theorem test_bpl :
    runs (with_ (cpuAt 0xC000 0x00 0x00 0x00 0xFD 0x24) []) [0x10, 0x7F] 3
      (fun t => t.cpu.pc == 0xC081) = true := by decide +kernel
theorem test_bcc :
    runs (with_ (cpuAt 0xC000 0x00 0x00 0x00 0xFD 0x25) []) [0x90, 0x10] 2
      (fun t => t.cpu.pc == 0xC002) = true := by decide +kernel
theorem test_bcs :
    runs (with_ (cpuAt 0xC000 0x00 0x00 0x00 0xFD 0x25) []) [0xB0, 0x10] 3
      (fun t => t.cpu.pc == 0xC012) = true := by decide +kernel
theorem test_bvc :
    runs (with_ (cpuAt 0xC000 0x00 0x00 0x00 0xFD 0x64) []) [0x50, 0x10] 2
      (fun t => t.cpu.pc == 0xC002) = true := by decide +kernel
theorem test_bvs :
    runs (with_ (cpuAt 0xC000 0x00 0x00 0x00 0xFD 0x64) []) [0x70, 0x10] 3
      (fun t => t.cpu.pc == 0xC012) = true := by decide +kernel
theorem test_v56_jmp_ind_page_bug :
    runs (with_ (cpuAt 0xC000 0x00 0x00 0x00 0xFD 0x24) [(0x0200, 0xC1), (0x02FF, 0x00), (0x0300, 0xC2)]) [0x6C, 0xFF, 0x02] 5
      (fun t => t.cpu.pc == 0xC100) = true := by decide +kernel
theorem test_jmp_abs :
    runs (with_ (cpuAt 0xC000 0x00 0x00 0x00 0xFD 0x24) []) [0x4C, 0x0F, 0xC0] 3
      (fun t => t.cpu.pc == 0xC00F) = true := by decide +kernel
theorem test_v58_jsr :
    runs (with_ (cpuAt 0xC000 0x00 0x00 0x00 0xFD 0x24) []) [0x20, 0x00, 0xC1] 6
      (fun t => ramAt t 0x1FD == 0xC0 && ramAt t 0x1FC == 0x02 && t.cpu.sp == 0xFB && t.cpu.pc == 0xC100) = true := by decide +kernel
theorem test_v59_rts :
    runs (with_ (cpuAt 0xC000 0x00 0x00 0x00 0xFB 0x24) [(0x01FC, 0x02), (0x01FD, 0xC0)]) [0x60] 6
      (fun t => t.cpu.pc == 0xC003 && t.cpu.sp == 0xFD) = true := by decide +kernel
theorem test_v60_rts_wraps :
    runs (with_ (cpuAt 0xC000 0x00 0x00 0x00 0xFB 0x24) [(0x01FC, 0xFF), (0x01FD, 0xFF)]) [0x60] 6
      (fun t => t.cpu.pc == 0x0000) = true := by decide +kernel
theorem test_v62_brk_masked :
    runs (with_ (cpuAt 0xC000 0x00 0x00 0x00 0xFD 0x24) []) [0x00] 7
      (fun t => ramAt t 0x1FD == 0xC0 && ramAt t 0x1FC == 0x02 && ramAt t 0x1FB == 0x34 && t.cpu.sp == 0xFA && t.cpu.p == 0x24 && t.cpu.pc == 0x0000) = true := by decide +kernel
theorem test_v63_rti :
    runs (with_ (cpuAt 0xC000 0x00 0x00 0x00 0xFA 0x24) [(0x01FB, 0xB0), (0x01FC, 0x02), (0x01FD, 0xC0)]) [0x40] 6
      (fun t => t.cpu.p == 0xA0 && t.cpu.pc == 0xC002 && t.cpu.sp == 0xFD) = true := by decide +kernel
theorem test_v64_rti_clears_b :
    runs (with_ (cpuAt 0xC000 0x00 0x00 0x00 0xFA 0x24) [(0x01FB, 0xFF), (0x01FC, 0x00), (0x01FD, 0x80)]) [0x40] 6
      (fun t => t.cpu.p == 0xEF && t.cpu.pc == 0x8000) = true := by decide +kernel
theorem test_v70_clc :
    runs (with_ (cpuAt 0xC000 0x00 0x00 0x00 0xFD 0x25) []) [0x18] 2
      (fun t => t.cpu.p == 0x24 && t.cpu.pc == 0xC001) = true := by decide +kernel
theorem test_sec :
    runs (with_ (cpuAt 0xC000 0x00 0x00 0x00 0xFD 0x24) []) [0x38] 2
      (fun t => t.cpu.p == 0x25 && t.cpu.pc == 0xC001) = true := by decide +kernel
theorem test_cli :
    runs (with_ (cpuAt 0xC000 0x00 0x00 0x00 0xFD 0x24) []) [0x58] 2
      (fun t => t.cpu.p == 0x20 && t.cpu.pc == 0xC001) = true := by decide +kernel
theorem test_v77_sei :
    runs (with_ (cpuAt 0xC000 0x00 0x00 0x00 0xFD 0x20) []) [0x78] 2
      (fun t => t.cpu.p == 0x24 && t.cpu.pc == 0xC001) = true := by decide +kernel
theorem test_cld :
    runs (with_ (cpuAt 0xC000 0x00 0x00 0x00 0xFD 0x2C) []) [0xD8] 2
      (fun t => t.cpu.p == 0x24 && t.cpu.pc == 0xC001) = true := by decide +kernel
theorem test_v72_sed :
    runs (with_ (cpuAt 0xC000 0x00 0x00 0x00 0xFD 0x24) []) [0xF8] 2
      (fun t => t.cpu.p == 0x2C && t.cpu.pc == 0xC001) = true := by decide +kernel
theorem test_v71_clv :
    runs (with_ (cpuAt 0xC000 0x00 0x00 0x00 0xFD 0x64) []) [0xB8] 2
      (fun t => t.cpu.p == 0x24 && t.cpu.pc == 0xC001) = true := by decide +kernel
theorem test_v73_nop :
    runs (with_ (cpuAt 0xC000 0x00 0x00 0x00 0xFD 0x24) []) [0xEA] 2
      (fun t => t.cpu.p == 0x24 && t.cpu.pc == 0xC001) = true := by decide +kernel
theorem test_v75_illegal_is_one_byte :
    runs (with_ (cpuAt 0xC000 0x00 0x00 0x00 0xFD 0x24) []) [0x80, 0xA9] 2
      (fun t => t.cpu.a == 0x00 && t.cpu.p == 0x24 && t.cpu.pc == 0xC001) = true := by decide +kernel

/-- V61: the vector at $FFFE/F = $00, $D0. -/
theorem test_v61_brk_vector :
    runs (placeBytes 0xFFFE [0x00, 0xD0] (with_ (cpuAt 0xC000 0 0 0 0xFD 0xA0) [])) [0x00] 7
      (fun t => ramAt t 0x1FB == 0xB0 && t.cpu.p == 0xA4 && t.cpu.pc == 0xD000) = true := by decide +kernel

/-! ## R158: every row's cycle count, with no page crossed, and its length -/

/-- The cycles of an opcode with operand bytes $00, run with N = V = Z = C = 0: the branches on a clear flag are taken, to the same page. -/
def rowCycles (op : Nat) : Nat :=
  match exec (decodeByte (BitVec.ofNat 8 op) 0 0) (with_ (cpuAt 0xC000 0 0 0 0xFD 0x24) []) with
  | .next t => t.cpu.totalCycles - 100
  | _ => 0

theorem test_row0_cycles_and_lengths :
    ((List.range 16).map fun k => rowCycles (0x00 + k)) == [7, 6, 2, 2, 2, 3, 5, 2, 3, 2, 2, 2, 2, 4, 6, 2] && ((List.range 16).map fun k => opcodeLength (BitVec.ofNat 8 (0x00 + k))) == [1, 2, 1, 1, 1, 2, 2, 1, 1, 2, 1, 1, 1, 3, 3, 1] := by
  decide +kernel
theorem test_row1_cycles_and_lengths :
    ((List.range 16).map fun k => rowCycles (0x10 + k)) == [3, 5, 2, 2, 2, 4, 6, 2, 2, 4, 2, 2, 2, 4, 7, 2] && ((List.range 16).map fun k => opcodeLength (BitVec.ofNat 8 (0x10 + k))) == [2, 2, 1, 1, 1, 2, 2, 1, 1, 3, 1, 1, 1, 3, 3, 1] := by
  decide +kernel
theorem test_row2_cycles_and_lengths :
    ((List.range 16).map fun k => rowCycles (0x20 + k)) == [6, 6, 2, 2, 3, 3, 5, 2, 4, 2, 2, 2, 4, 4, 6, 2] && ((List.range 16).map fun k => opcodeLength (BitVec.ofNat 8 (0x20 + k))) == [3, 2, 1, 1, 2, 2, 2, 1, 1, 2, 1, 1, 3, 3, 3, 1] := by
  decide +kernel
theorem test_row3_cycles_and_lengths :
    ((List.range 16).map fun k => rowCycles (0x30 + k)) == [2, 5, 2, 2, 2, 4, 6, 2, 2, 4, 2, 2, 2, 4, 7, 2] && ((List.range 16).map fun k => opcodeLength (BitVec.ofNat 8 (0x30 + k))) == [2, 2, 1, 1, 1, 2, 2, 1, 1, 3, 1, 1, 1, 3, 3, 1] := by
  decide +kernel
theorem test_row4_cycles_and_lengths :
    ((List.range 16).map fun k => rowCycles (0x40 + k)) == [6, 6, 2, 2, 2, 3, 5, 2, 3, 2, 2, 2, 3, 4, 6, 2] && ((List.range 16).map fun k => opcodeLength (BitVec.ofNat 8 (0x40 + k))) == [1, 2, 1, 1, 1, 2, 2, 1, 1, 2, 1, 1, 3, 3, 3, 1] := by
  decide +kernel
theorem test_row5_cycles_and_lengths :
    ((List.range 16).map fun k => rowCycles (0x50 + k)) == [3, 5, 2, 2, 2, 4, 6, 2, 2, 4, 2, 2, 2, 4, 7, 2] && ((List.range 16).map fun k => opcodeLength (BitVec.ofNat 8 (0x50 + k))) == [2, 2, 1, 1, 1, 2, 2, 1, 1, 3, 1, 1, 1, 3, 3, 1] := by
  decide +kernel
theorem test_row6_cycles_and_lengths :
    ((List.range 16).map fun k => rowCycles (0x60 + k)) == [6, 6, 2, 2, 2, 3, 5, 2, 4, 2, 2, 2, 5, 4, 6, 2] && ((List.range 16).map fun k => opcodeLength (BitVec.ofNat 8 (0x60 + k))) == [1, 2, 1, 1, 1, 2, 2, 1, 1, 2, 1, 1, 3, 3, 3, 1] := by
  decide +kernel
theorem test_row7_cycles_and_lengths :
    ((List.range 16).map fun k => rowCycles (0x70 + k)) == [2, 5, 2, 2, 2, 4, 6, 2, 2, 4, 2, 2, 2, 4, 7, 2] && ((List.range 16).map fun k => opcodeLength (BitVec.ofNat 8 (0x70 + k))) == [2, 2, 1, 1, 1, 2, 2, 1, 1, 3, 1, 1, 1, 3, 3, 1] := by
  decide +kernel
theorem test_row8_cycles_and_lengths :
    ((List.range 16).map fun k => rowCycles (0x80 + k)) == [2, 6, 2, 2, 3, 3, 3, 2, 2, 2, 2, 2, 4, 4, 4, 2] && ((List.range 16).map fun k => opcodeLength (BitVec.ofNat 8 (0x80 + k))) == [1, 2, 1, 1, 2, 2, 2, 1, 1, 1, 1, 1, 3, 3, 3, 1] := by
  decide +kernel
theorem test_row9_cycles_and_lengths :
    ((List.range 16).map fun k => rowCycles (0x90 + k)) == [3, 6, 2, 2, 4, 4, 4, 2, 2, 5, 2, 2, 2, 5, 2, 2] && ((List.range 16).map fun k => opcodeLength (BitVec.ofNat 8 (0x90 + k))) == [2, 2, 1, 1, 2, 2, 2, 1, 1, 3, 1, 1, 1, 3, 1, 1] := by
  decide +kernel
theorem test_rowA_cycles_and_lengths :
    ((List.range 16).map fun k => rowCycles (0xA0 + k)) == [2, 6, 2, 2, 3, 3, 3, 2, 2, 2, 2, 2, 4, 4, 4, 2] && ((List.range 16).map fun k => opcodeLength (BitVec.ofNat 8 (0xA0 + k))) == [2, 2, 2, 1, 2, 2, 2, 1, 1, 2, 1, 1, 3, 3, 3, 1] := by
  decide +kernel
theorem test_rowB_cycles_and_lengths :
    ((List.range 16).map fun k => rowCycles (0xB0 + k)) == [2, 5, 2, 2, 4, 4, 4, 2, 2, 4, 2, 2, 4, 4, 4, 2] && ((List.range 16).map fun k => opcodeLength (BitVec.ofNat 8 (0xB0 + k))) == [2, 2, 1, 1, 2, 2, 2, 1, 1, 3, 1, 1, 3, 3, 3, 1] := by
  decide +kernel
theorem test_rowC_cycles_and_lengths :
    ((List.range 16).map fun k => rowCycles (0xC0 + k)) == [2, 6, 2, 2, 3, 3, 5, 2, 2, 2, 2, 2, 4, 4, 6, 2] && ((List.range 16).map fun k => opcodeLength (BitVec.ofNat 8 (0xC0 + k))) == [2, 2, 1, 1, 2, 2, 2, 1, 1, 2, 1, 1, 3, 3, 3, 1] := by
  decide +kernel
theorem test_rowD_cycles_and_lengths :
    ((List.range 16).map fun k => rowCycles (0xD0 + k)) == [3, 5, 2, 2, 2, 4, 6, 2, 2, 4, 2, 2, 2, 4, 7, 2] && ((List.range 16).map fun k => opcodeLength (BitVec.ofNat 8 (0xD0 + k))) == [2, 2, 1, 1, 1, 2, 2, 1, 1, 3, 1, 1, 1, 3, 3, 1] := by
  decide +kernel
theorem test_rowE_cycles_and_lengths :
    ((List.range 16).map fun k => rowCycles (0xE0 + k)) == [2, 6, 2, 2, 3, 3, 5, 2, 2, 2, 2, 2, 4, 4, 6, 2] && ((List.range 16).map fun k => opcodeLength (BitVec.ofNat 8 (0xE0 + k))) == [2, 2, 1, 1, 2, 2, 2, 1, 1, 2, 1, 1, 3, 3, 3, 1] := by
  decide +kernel
theorem test_rowF_cycles_and_lengths :
    ((List.range 16).map fun k => rowCycles (0xF0 + k)) == [2, 5, 2, 2, 2, 4, 6, 2, 2, 4, 2, 2, 2, 4, 7, 2] && ((List.range 16).map fun k => opcodeLength (BitVec.ofNat 8 (0xF0 + k))) == [2, 2, 1, 1, 1, 2, 2, 1, 1, 3, 1, 1, 1, 3, 3, 1] := by
  decide +kernel

/-! ## Memory map (95_test_vectors.md 2.5) -/

/-- The reset System with another CHR, PRG or RAM content is built from this one by bus writes. -/
def readBack (a : Word) (s : State) : Byte := (busRead a s).1

theorem test_v80_ram_mirrors :
    [0x0001, 0x0801, 0x1001, 0x1801].all (fun a => readBack a (busWrite 0x0801 0x55 State.reset) == 0x55) = true := by decide +kernel

theorem test_v81_ppu_mirror : (busWrite 0x3FFE 0x06 State.reset).ppu.t = 0x0600 ∧ (busWrite 0x3FFE 0x06 State.reset).ppu.w = true := by
  decide +kernel

theorem test_v82_v83_v84_cartridge_and_prg_ram :
    busWrite 0x8000 0x12 State.reset = State.reset ∧ readBack 0x4018 State.reset = 0 ∧ readBack 0x4020 State.reset = 0
      ∧ readBack 0x6000 (busWrite 0x6000 0x77 State.reset) = 0x77 := by decide +kernel

/-- An NROM-128 cartridge whose byte at PRG offset $0123 is $5A. -/
def nrom128 : Cartridge := { Cartridge.blank with prgRom := [(0x123, 0x5A)], prgSize := 0x4000 }

theorem test_v85_nrom128_mirror :
    readBack 0x8123 { State.reset with cart := nrom128 } = 0x5A ∧ readBack 0xC123 { State.reset with cart := nrom128 } = 0x5A := by
  decide +kernel

theorem test_v86_words_are_low_byte_first : (readWord 0xFFFC (placeBytes 0xFFFC [0x00, 0xC0] State.reset)).1 = 0xC000 := by decide +kernel

/-! ## Interrupts and the master cycle (2.6) -/

/-- V91's boundary: a frame IRQ asserted. -/
def irqState (p : Byte) : State :=
  let s := with_ (cpuAt 0xC010 0 0 0 0xFD p) []
  { s with apu := { s.apu with frame := { s.apu.frame with irq := true } } }

theorem test_v91_irq :
    (let t := interruptPoll (irqState 0x20)
     ramAt t 0x1FD == 0xC0 && ramAt t 0x1FC == 0x10 && ramAt t 0x1FB == 0x20 && t.cpu.sp == 0xFA && t.cpu.p == 0x24
      && Nat.beq t.cpu.cyclesRemaining 7 && Nat.beq t.cpu.totalCycles 107) = true := by decide +kernel

theorem test_v92_masked_irq_stays : interruptPoll (irqState 0x24) = irqState 0x24 := by decide +kernel

/-- The boundary after a BRK executed with I = 0, under a reading of R283. -/
def afterBrkState (m : BrkIrq) : State :=
  let s := irqState 0x24
  { s with cpu := { s.cpu with brkUnmasked := true }, config := { s.config with brkIrq := m } }

/-- R283: what BRK keeps of I for the poll after it. -/
theorem test_brk_keeps_the_mask_before_it :
    runs (with_ (cpuAt 0xC000 0 0 0 0xFD 0x20) []) [0x00] 7 (fun t => t.cpu.brkUnmasked && t.cpu.flag .i) = true
      ∧ runs (with_ (cpuAt 0xC000 0 0 0 0xFD 0x24) []) [0x00] 7 (fun t => !t.cpu.brkUnmasked && t.cpu.flag .i) = true := by decide +kernel

/-- R283, R409: the IRQ pending at the end of BRK; R405, R406: the one BRK's I masks. -/
theorem test_irq_after_brk :
    (let t := interruptPoll (afterBrkState .entered)
     ramAt t 0x1FB == 0x24 && Nat.beq t.cpu.cyclesRemaining 7 && !t.cpu.brkUnmasked) = true
      ∧ interruptPoll (afterBrkState .masked) = afterBrkState .masked := by decide +kernel

theorem test_v93_nmi_first :
    (let s := irqState 0x20
     let t := interruptPoll { s with ppu := { s.ppu with nmiPending := true } }
     Nat.beq t.cpu.cyclesRemaining 8 && t.apu.frame.irq && !t.ppu.nmiPending) = true := by decide +kernel

theorem test_v94_no_interrupt_inside_an_instruction :
    (let s := irqState 0x20
     let u := { s with cpu := { s.cpu with cyclesRemaining := 2 }, ppu := { s.ppu with nmiPending := true } }
     decide (interruptPoll u = u)) = true := by decide +kernel

theorem test_v97_drained_mapper_irq :
    (let s := with_ (cpuAt 0xC010 0 0 0 0xFD 0x24) []
     let t := interruptPoll { s with cart := { s.cart with mapper := { s.cart.mapper with irqPending := true } } }
     !t.cart.mapper.irqPending && t.cpu.pc == 0xC010) = true := by decide +kernel

/-- V90, V96: reset's 8 slots, the first two master cycles. -/
theorem test_v90_v96_first_master_cycles :
    (match step State.reset with
      | .next t =>
        Nat.beq t.cpu.cyclesRemaining 7 && Nat.beq t.ppu.cycle 1 && Nat.beq t.cpuTickCount 1
          && (match step t with
            | .next u => Nat.beq u.cpu.cyclesRemaining 7 && Nat.beq u.ppu.cycle 2 && Nat.beq u.cpuTickCount 1
            | _ => false)
      | _ => false) = true := by decide +kernel

/-- R711, D55. -/
theorem test_no_rom_loaded : step newSystem = .refused .noRomLoaded := rfl

/-- R700: the reset state is what `reset()` leaves of it. -/
theorem test_reset_is_the_systems_reset : systemReset State.reset = State.reset := by decide +kernel

/-- The word A9 80 placed for the next step. -/
theorem test_withFetchWord :
    (match step (State.reset.withFetchWord 16 0x80A9) with
      | .next t => t.cpu.a == 0x80 && t.cpu.pc == 0x0002
      | _ => false) = true := by decide +kernel

/-! ## OAM DMA (2.7) -/

/-- V100, V101: the alignment slot, the first read and the first write. -/
theorem test_dma_first_slots :
    (let s := busWrite 0x4014 0x02 (with_ (cpuAt 0xC000 0 0 0 0xFD 0x24) [(0x200, 0x5A)])
     let t := dmaRun 3 11 s
     let u := dmaRun 3 12 s
     t.ppu.oam.read 0 == 0x5A && t.dma.addr == 1 && u.ppu.oam.read 0 == 0 && u.dma.data == 0x5A) = true := by decide +kernel

/-! ## PPU (2.8) -/

/-- The reset System with this PPU. -/
def withPpu (p : Ppu) : State := { State.reset with ppu := p }

theorem test_v110_read_status :
    (let r := busRead 0x2002 (withPpu { Ppu.reset with status := 0x80, dataBuffer := 0x15, w := true })
     r.1 == 0x95 && r.2.ppu.status == 0 && !r.2.ppu.w) = true := by decide +kernel

theorem test_v112_scroll :
    (let s := busWrite 0x2005 0x7D State.reset
     let t := busWrite 0x2005 0x5E s
     s.ppu.t == 0x000F && s.ppu.fineX == 5 && s.ppu.w && t.ppu.t == 0x616F && !t.ppu.w
      && (busWrite 0x2000 0x03 t).ppu.t == 0x6D6F) = true := by decide +kernel

theorem test_v114_v115_address :
    (busWrite 0x2006 0x08 (busWrite 0x2006 0x21 State.reset)).ppu.v = 0x2108
      ∧ (busWrite 0x2006 0x00 (busWrite 0x2006 0xFF State.reset)).ppu.v = 0x3F00 := by decide +kernel

/-- V116: under Horizontal $2108 is nametable byte $108. -/
theorem test_v116_buffered_reads :
    (let r := busRead 0x2007 (withPpu { Ppu.reset with v := 0x2108, nametable := [(0x108, 0xAB), (0x109, 0xCD)] })
     let q := busRead 0x2007 r.2
     let o := busRead 0x2007 q.2
     r.1 == 0x00 && q.1 == 0xAB && o.1 == 0xCD && o.2.ppu.v == 0x210B) = true := by decide +kernel

theorem test_v117_v118_increment_and_palette :
    (busRead 0x2007 (withPpu { Ppu.reset with v := 0x2000, ctrl := 0x04 })).2.ppu.v = 0x2020
      ∧ (let r := busRead 0x2007 (withPpu { Ppu.reset with v := 0x3F00, palette := [(0, 0x2C)], nametable := [(0x700, 0x11)] })
         r.1 = 0x2C ∧ r.2.ppu.dataBuffer = 0x11 ∧ r.2.ppu.v = 0x3F01) := by decide +kernel

theorem test_v119_palette_alias : (busWrite 0x2007 0x2C (withPpu { Ppu.reset with v := 0x3F10 })).ppu.palette = [(0, 0x2C)] := by
  decide +kernel

theorem test_v120_v121_mirroring :
    (let w := fun m : Mirroring => ppuWrite { Cartridge.blank with mirroring := m } Ppu.reset 0x2400 0x5A
     ppuRead (w .vertical).2 (w .vertical).1 0x2C00 == 0x5A && ppuRead (w .horizontal).2 (w .horizontal).1 0x2000 == 0x5A) = true := by
  decide +kernel

theorem test_v122_v123_immediate_nmi :
    (busWrite 0x2000 0x80 (withPpu { Ppu.reset with status := 0x80 })).ppu.nmiPending = true
      ∧ (busWrite 0x2000 0x80 (withPpu { Ppu.reset with status := 0x80, ctrl := 0x80 })).ppu.nmiPending = false := by decide +kernel

theorem test_v124_vblank :
    (let q := ppuDot Cartridge.blank { Ppu.reset with ctrl := 0x80, scanline := 241, cycle := 1 }
     q.status == 0x80 && q.nmiPending) = true := by decide +kernel

theorem test_v125_pre_render :
    (let q := ppuDot Cartridge.blank { Ppu.reset with status := 0xE0, scanline := -1, cycle := 1 }
     q.status == 0 && q.frameComplete && Nat.beq q.cycle 2) = true := by decide +kernel

theorem test_v126_v127_skipped_dot :
    (Nat.beq (ppuDot Cartridge.blank { Ppu.reset with oddFrame := true, mask := 0x08 }).cycle 2
      && Nat.beq (ppuDot Cartridge.blank { Ppu.reset with oddFrame := true }).cycle 1) = true := by decide +kernel

theorem test_v128_v129_v130_increments :
    incrementX 0x001F = 0x0400 ∧ incrementY 0x73A0 = 0x0800 ∧ incrementY 0x73E0 = 0x0000 := by decide +kernel

theorem test_v131_oam_data :
    (let t := busWrite 0x2004 0x12 (withPpu { Ppu.reset with oamAddr := 0xFF })
     t.ppu.oam.read 0xFF == 0x12 && t.ppu.oamAddr == 0) = true := by decide +kernel

/-- V132: nine sprites with Y = 20; the rest of OAM at Y = $FF. -/
def nineSprites : Ppu :=
  { Ppu.reset with
    oam := Memory.ofBytes ((List.replicate 9 [0x14, 0x01, 0x02, 0x03]).flatten ++ List.replicate 220 0xFF)
    scanline := 20, cycle := 257, mask := 0x18 }

theorem test_v132_sprite_overflow :
    (let q := evaluateSprites nineSprites
     Nat.beq q.spriteCount 8 && q.status == 0x20 && q.sprite0Next && q.secondaryOam.read 28 == 0x14) = true := by decide +kernel

/-- An opaque background pixel and an opaque sprite 0 under dot `cycle`. -/
def hitAt (cycle : Nat) (mask : Byte) : Bool :=
  let p := { Ppu.reset with
    mask := mask, scanline := 10, cycle := cycle, bgLo := 0x8000, spriteCount := 1, sprite0Line := true
    sprites := { lo := 0x80, hi := 0, attr := 0, x := 0 } :: List.replicate 7 SpriteUnit.clear }
  spriteZeroHit p (backgroundPixel p) (spritePixel p)

theorem test_v133_v134_v135_sprite_zero_hit :
    hitAt 5 0x18 = false ∧ hitAt 5 0x1E = true ∧ hitAt 256 0x1E = false ∧ hitAt 255 0x1E = true := by decide +kernel

/-- V136: the A12 mark is raised at dot 260 of a rendered line and taken within the master cycle. -/
theorem test_v136_a12 :
    (let p := { Ppu.reset with mask := 0x08, scanline := 100, cycle := 260 }
     (ppuDot Cartridge.blank p).scanlineIrqFlag && !(dotPhase (withPpu p)).ppu.scanlineIrqFlag
      && !(ppuDot Cartridge.blank { p with cycle := 261 }).scanlineIrqFlag) = true := by decide +kernel

/-! ## APU (2.9) -/

theorem test_v140_v141_length :
    (busWrite 0x4003 0x08 (busWrite 0x4015 0x01 State.reset)).apu.pulse1.length = 254
      ∧ (busWrite 0x4003 0x08 State.reset).apu.pulse1.length = 0
      ∧ (busWrite 0x400F 0xF8 (busWrite 0x4015 0x0F State.reset)).apu.noise.length = 30 := by decide +kernel

/-- The reset System with this APU. -/
def withApu (a : Apu) : State := { State.reset with apu := a }

/-- V143's APU. -/
def ringing : Apu :=
  { Apu.reset 44100 with
    pulse1 := { Pulse.reset with length := 254 }
    frame := { FrameCounter.reset with irq := true }
    dmc := { Dmc.reset with irq := true } }

theorem test_v143_v144_status :
    (let r := busRead 0x4015 (withApu ringing)
     let t := busWrite 0x4015 0x00 (withApu ringing)
     r.1 == 0xC1 && !r.2.apu.frame.irq && r.2.apu.dmc.irq && !t.apu.dmc.irq && Nat.beq t.apu.pulse1.length 0) = true := by decide +kernel

/-- V145, V146, V147: a period of $100 (of 7), shift 1, negate. -/
def swept (period : BitVec 11) : Pulse :=
  { Pulse.reset with timerPeriod := period, length := 1, duty := 3, sweep := { Sweep.reset with shift := 1, negate := true } }

theorem test_v145_v146_v147_sweep :
    sweepTarget true (swept 0x100) = 0x7F ∧ sweepTarget false (swept 0x100) = 0x80 ∧ pulseOutput true (swept 7) = 0 := by decide +kernel

theorem test_v148_envelope :
    (let e := clockEnvelope false { Envelope.reset with start := true, volume := 3 }
     Nat.beq e.decay 15 && Nat.beq e.divider 3) = true := by decide +kernel

theorem test_v149_v150_v151_triangle_and_noise :
    triangleOutput { Triangle.reset with timerPeriod := 1 } = 7 ∧ stepLfsr false 0x0001 = 0x4000 ∧ stepLfsr false 0x4000 = 0x2000 := by
  decide +kernel

theorem test_v152_dmc_registers :
    (busWrite 0x4012 0x40 State.reset).apu.dmc.sampleAddr = 0xD000 ∧ (busWrite 0x4013 0x01 State.reset).apu.dmc.sampleLen = 17 := by
  decide +kernel

theorem test_v153_v154_dmc_fetch :
    (let f := fun (a : Word) (n : Nat) =>
       (dmcFetch (withApu { Apu.reset 44100 with
         dmc := { Dmc.reset with currentAddr := a, bytesRemaining := n, irqEnable := true } })).2
     (f 0xFFFF 2).apu.dmc.currentAddr == 0x8000 && Nat.beq (f 0xFFFF 2).apu.dmc.bytesRemaining 1
      && Nat.beq (f 0xFFFF 2).dmcStall 4 && !(f 0xFFFF 2).apu.dmc.irq
      && Nat.beq (f 0xC000 1).apu.dmc.bytesRemaining 0 && (f 0xC000 1).apu.dmc.irq) = true := by decide +kernel

theorem test_v155_frame_step :
    (let a := frameTick .atStep (setFrameCycle 29828 (Apu.reset 44100))
     a.frame.irq && Nat.beq a.frame.frameCycle 0 && !(frameTick .atStep (setFrameCycle 29827 (Apu.reset 44100))).frame.irq) = true := by
  decide +kernel

/-- R556, R714: the same step, and a period of 29830. -/
theorem test_frame_period_after_step :
    (let a := frameTick .afterStep (setFrameCycle 29828 (Apu.reset 44100))
     a.frame.irq && Nat.beq a.frame.frameCycle 29829 && Nat.beq (frameTick .afterStep a).frame.frameCycle 0) = true := by
  decide +kernel

theorem test_v156_v157_frame_counter_write :
    (let t := busWrite 0x4017 0x80 (withApu { ringing with pulse1 := { Pulse.reset with length := 9 } })
     t.apu.frame.fiveStep && Nat.beq t.apu.pulse1.length 8 && t.apu.frame.irq
      && !(busWrite 0x4017 0x40 (withApu ringing)).apu.frame.irq) = true := by decide +kernel

/-- V158, V159: the binary64 values nearest 0.14937681761528873 and 0.24641204893595145. -/
theorem test_v158_v159_mixer :
    mixSample 15 0 0 0 0 = f64OfRatio 14937681761528873 100000000000000000
      ∧ mixSample 0 0 15 0 0 = f64OfRatio 24641204893595145 100000000000000000 := by decide +kernel

theorem test_v160_mixer : mixSample 15 15 15 15 127 = f64OfRatio 9999993508269456 10000000000000000 := by decide +kernel

/-- V161. -/
theorem test_v161_filters :
    (let u := filterStep Config.default (f64OfRatio 14937681761528873 100000000000000000) (Audio.reset 44100)
     u.lp = f64OfRatio 14937681761528874 1000000000000000000 ∧ u.hp = f64OfRatio 1487793103448276 100000000000000000) := by decide +kernel

theorem test_v162_clip : hardClip (softClip (f64OfRatio 12 10)) = f64OfNat 1 := by decide +kernel

/-! ## Controllers and the loader (2.10, 2.11) -/

/-- V170: A and Start of controller 1 held, strobed, and the k-th read of $4016. -/
def padRead (k : Nat) : Byte :=
  let s := { State.reset with pads := { State.reset.pads with buttons1 := 0x90 } }
  (busRead 0x4016 (Nat.repeat (fun u => (busRead 0x4016 u).2) k (busWrite 0x4016 1 s))).1

theorem test_v170_controller : (List.range 9).map padRead = [1, 0, 0, 1, 0, 0, 0, 0, 0] := by decide +kernel

theorem test_v170_buttons :
    (match setButton .one .a true State.reset with
      | .ok s => (match setButton .one .start true s with | .ok t => t.pads.buttons1 == 0x90 | _ => false)
      | _ => false) = true := by decide +kernel

/-- What the parser makes of bytes 4 to 7. -/
theorem test_v180_to_v184_headers :
    (parseHeader 0x01 0x01 0x01 0x00).mirroring = .vertical ∧ (parseHeader 0x02 0x00 0x00 0x00).chrBase = 8192
      ∧ (parseHeader 0x08 0x10 0x48 0x00).mapper = 4 ∧ (parseHeader 0x08 0x10 0x48 0x00).mirroring = .fourScreen
      ∧ (parseHeader 0x01 0x01 0x00 0x10).mapper = 16 ∧ (parseHeader 0x01 0x01 0x40 0x10).mapper = 20
      ∧ mapperOfNumber 20 = none ∧ (parseHeader 0x01 0x01 0x04 0x00).prgOffset = 528 := by decide +kernel

theorem test_v185_v186_refused :
    loadRom [0x4E, 0x45, 0x53, 0x1B, 0x01, 0x01, 0x00, 0x00] State.reset = .error .unsupportedRom
      ∧ loadRom ([0x4E, 0x45, 0x53, 0x1A, 0x01, 0x01, 0x00, 0x00] ++ List.replicate 108 0) State.reset = .error .unsupportedRom := by
  decide +kernel

/-- S15, S16. -/
theorem test_s15_s16_mappers :
    (let m := mmc3ScanlineTick { MapperRegs.blank with irqLatch := 1, irqEnabled := true }
     decide (m.irqCounter = 1) && !m.irqPending && (mmc3ScanlineTick m).irqPending
      && (cpuMapWrite { Cartridge.blank with variant := .multi52in1 } 0xA000 0).mirroring == .vertical
      && (cpuMapWrite { Cartridge.blank with variant := .multi52in1 } 0x8000 0).mirroring == .horizontal) = true := by decide +kernel

/-- R596: Color Dreams' nibbles would be 5 and 10; CNROM's select, AxROM's 32 KB banks, NINA's range, as far as the lines fix them. -/
theorem test_mapper_lines :
    (let c := fun v => { Cartridge.blank with variant := v, prgSize := 0x40000, mapper := { MapperRegs.blank with prg := 3, chr := 1 } }
     decide (cpuMapRead (c .axrom) 0x8001 = some 0x18001) && decide (cpuMapRead (c .uxrom) 0xBFFF = some 0xFFFF)
      && decide (cpuMapRead (c .uxrom) 0xC000 = some 0x3C000) && Nat.beq (cpuMapWrite (c .uxrom) 0x8000 0xA5).mapper.prg 5
      && Nat.beq (cpuMapWrite (c .cnrom) 0x7FFF 0xA5).mapper.chr 1 && Nat.beq (cpuMapWrite (c .nina) 0x40FF 0xA5).mapper.prg 3) = true := by
  decide +kernel

/-- R598, 253: the index's two readings of $B008, a region of appended RAM, and its lock. -/
theorem test_waixing :
    (let m := { MapperRegs.blank with banks := [4, 6, 5, 0, 0, 0, 0, 0] }
     showsAppendedRam m 0 && !showsAppendedRam m 1 && showsAppendedRam m 2 && !showsAppendedRam { m with vlock := true } 0
      && !waixingLock 0xC8 true && waixingLock 0x88 false && waixingLock 4 true
      && Nat.beq (writableBanks { Cartridge.blank with chrSize := 0x4000, chrRamFrom := 0x2000 }) 0xFF00) = true := by decide +kernel

/-- R602: 253 without CHR banks has 16 KB of CHR RAM, the appended 8 KB in its upper half; with one bank they follow the CHR ROM. -/
theorem test_waixing_appended :
    (let c := fun b5 => buildCartridge (parseHeader 1 b5 0xD0 0xF0) .waixingVrc4 []
     Nat.beq (c 0).chrSize 0x4000 && Nat.beq (appendedRamStart (c 0)) 0x2000 && Nat.beq (writableBanks (c 0)) 0xFFFF
      && Nat.beq (appendedRamStart (c 2)) 0x4000 && Nat.beq (c 2).chrRamFrom 0x4000) = true := by decide +kernel

/-! ## For every statement with hypotheses, states and operands that meet them, each clause at the ends of its range -/

/-- DecodeOfEncodeIsTheInstruction. -/
theorem test_witness_decode_of_encode :
    (Instr.lda (.mem (.izy 0xFF))).wf = true ∧ (Instr.jmp (.ind 0xFFFF)).wf = true ∧ (Instr.nopIllegal 0xFF).wf = true := by decide

/-- IllegalOpcodesAreOneByteNops: both clauses, at the first and last opcode. -/
theorem test_witness_illegal : (0x02 : Byte) ∈ illegalOpcodes ∧ (0xFF : Byte) ∈ illegalOpcodes ∧ (0x00 : Byte) ∉ illegalOpcodes
    ∧ (0xFE : Byte) ∉ illegalOpcodes := by decide +kernel

/-- The `MemoryOk` of RamMirrorsEveryTwoKilobytes, StoresCompleteWithOneByte, PushesComplete, IncDecComplete, MemoryShiftsComplete,
JsrCompletes, BrkTakesTheSoftwareInterrupt, ReturnsUndoTheirEntries, NmiEntersWhateverTheMask, IrqEntersOnlyUnmasked,
OamDmaMovesAPageInItsSlots, PpuDataPort and NametablePaletteAndOamAddressing, in a System with bytes in RAM, and `StatusOk`. -/
theorem test_witness_memoryOk :
    MemoryOk (with_ (cpuAt 0xC000 1 2 3 0x00 0x24) [(0x7FF, 0x11), (0, 0x22)])
      ∧ StatusOk (with_ (cpuAt 0xC000 1 2 3 0x00 0x24) [(0x7FF, 0x11), (0, 0x22)]) :=
  ⟨⟨⟨⟨by decide +kernel, by decide +kernel⟩, by unfold Memory.below; decide +kernel⟩,
    ⟨Memory.nil_ok _, Memory.nil_ok _, Memory.nil_ok _, by decide +kernel, by decide +kernel⟩,
    ⟨Memory.nil_ok _, Memory.nil_ok _, Memory.nil_ok _, Memory.nil_ok _⟩, ⟨⟨.nil, nofun⟩, nofun⟩⟩,
    by decide +kernel, by decide +kernel⟩

/-- RamMirrorsEveryTwoKilobytes: the same byte at the two ends, another byte, an address outside. -/
theorem test_witness_ram :
    InRam 0x0000 ∧ InRam 0x1FFF ∧ SameRamByte 0x07FF 0x1FFF ∧ ¬ SameRamByte 0x07FE 0x1FFF ∧ ¬ SameRamByte 0x2000 0x0000 := by
  unfold SameRamByte InRam; decide +kernel

/-- UnmappedAddressesReadZero: the ends of each clause. -/
theorem test_witness_unmapped :
    (0x4000 ≤ (0x4014 : Word).toNat ∧ (0x4014 : Word).toNat ≤ 0x4014) ∧ (0x4018 ≤ (0x4018 : Word).toNat ∧ (0x401F : Word).toNat ≤ 0x401F)
      ∧ (0x2000 ≤ (0x2000 : Word).toNat ∧ (0x2000 : Word).toNat % 8 = 0) ∧ ((0x3FFE : Word).toNat < 0x4000 ∧ (0x3FFE : Word).toNat % 8 = 6)
      ∧ (0x4020 ≤ (0x4020 : Word).toNat ∧ cpuMapRead State.reset.cart 0x4020 = none ∧ cpuMapRead State.reset.cart 0x5FFF = none) := by
  decide +kernel

/-- NromMapsItsRomAndDropsStores: both sizes, the ends of both banks. -/
theorem test_witness_nrom :
    Cartridge.blank.variant = .nrom ∧ Cartridge.blank.prgSize = 0x8000 ∧ nrom128.variant = .nrom ∧ nrom128.prgSize = 0x4000
      ∧ 0x8000 ≤ (0x8000 : Word).toNat ∧ (0xBFFF : Word).toNat < 0xC000 ∧ 0x8000 ≤ (0xFFFF : Word).toNat := by decide +kernel

/-- EffectiveAddressOfEveryMode and OperandValuesAndPageCrossingCycles: base $02FF, index 0 and 1. -/
theorem test_witness_crossing :
    (effective (.absx 0x02FF) (with_ (cpuAt 0xC000 0 0 0 0xFD 0x24) [])).crossed = false
      ∧ (effective (.absx 0x02FF) (with_ (cpuAt 0xC000 0 1 0 0xFD 0x24) [])).crossed = true
      ∧ (effective (.absy 0xFFFF) (with_ (cpuAt 0xC000 0 0 1 0xFD 0x24) [])).crossed = true
      ∧ (effective (.izy 0x10) (with_ (cpuAt 0xC000 0 0 1 0xFD 0x24) [(0x10, 0xFF)])).crossed = true := by decide +kernel

/-- The addresses `ReadHasSideEffect` holds of, and their neighbours: the clauses of `OperandFrame`, JumpsComplete and
StepRunsTheDecodedInstruction. -/
theorem test_witness_side_effects :
    ReadHasSideEffect 0x2002 ∧ ReadHasSideEffect 0x3FFF ∧ ReadHasSideEffect 0x4015 ∧ ReadHasSideEffect 0x4017
      ∧ ¬ ReadHasSideEffect 0x1FFF ∧ ¬ ReadHasSideEffect 0x2001 ∧ ¬ ReadHasSideEffect 0x4014 ∧ ¬ ReadHasSideEffect 0x4018
      ∧ ¬ ReadHasSideEffect 0x4007 := by
  unfold ReadHasSideEffect
  exact ⟨by decide, by decide, by decide, by decide, by decide, by decide, by decide, by decide, by decide⟩

/-- A quiet operand and one that is not. -/
theorem test_witness_quiet :
    OperandQuiet (.mem (.abs 0x0200)) State.reset ∧ ¬ OperandQuiet (.mem (.abs 0x2007)) State.reset := by
  unfold OperandQuiet effective ReadHasSideEffect; decide +kernel

/-- `ByteStored`: an address for each of its clauses. -/
theorem test_witness_stored :
    InRam 0x1FFF ∧ InPrgRam 0x6000 ∧ InPrgRam 0x7FFF ∧ ¬ InRam 0x2000 ∧ ¬ InPrgRam 0x2000 ∧ ¬ InPrgRam 0x8000
      ∧ State.reset.cart.variant = .nrom ∧ 0x4018 ≤ (0x4018 : Word).toNat ∧ ¬ InPrgRam 0x4018 ∧ ¬ InPrgRam 0x5FFF := by
  unfold InRam InPrgRam; decide +kernel

/-- ReturnsUndoTheirEntries reaches the second instruction, and BranchesComplete both conditions. -/
theorem test_witness_branch : State.reset.cpu.flag .c = false ∧ State.reset.cpu.flag .i = true := by decide +kernel

/-- DecimalFlagNeverChangesAResult: an instruction of the list, with its next state. -/
theorem test_witness_decimal : ∃ t, exec (.adc (.imm 0x99)) State.reset = .next t := ⟨_, rfl⟩

/-- IrqEntersOnlyUnmasked: both clauses. -/
theorem test_witness_irq : (irqState 0x20).cpu.flag .i = false ∧ (irqState 0x24).cpu.flag .i = true
    ∧ (afterBrkState .entered).config.brkIrq = .entered ∧ (afterBrkState .entered).cpu.brkUnmasked = true
    ∧ (afterBrkState .masked).cpu.flag .i = true ∧ (afterBrkState .masked).config.brkIrq ≠ .entered := by decide +kernel

/-- PollTakesNmiFirstAndOnlyAtABoundary and PollTakesAnUnmaskedIrq: a boundary with an IRQ line, I clear and I set, and without. -/
theorem test_witness_poll :
    (irqState 0x20).cpu.cyclesRemaining = 0 ∧ (irqState 0x20).dma.transferring = false ∧ (irqState 0x20).dmcStall = 0
      ∧ (irqState 0x20).ppu.nmiPending = false ∧ (irqState 0x20).apu.frame.irq = true ∧ (irqState 0x20).cpu.flag .i = false
      ∧ (irqState 0x24).cpu.flag .i = true ∧ (irqState 0x20).config.mapperIrqRetention = .drain
      ∧ (with_ (cpuAt 0 0 0 0 0 0x20) []).apu.frame.irq = false ∧ (with_ (cpuAt 0 0 0 0 0 0x20) []).apu.dmc.irq = false
      ∧ 0 < State.reset.cpu.cyclesRemaining := by decide +kernel

/-- A System whose next step runs the NOP at $0000 (EA). -/
def atNop : State := State.reset.withFetchWord 8 0xEA

/-- StepRunsTheDecodedInstruction. -/
theorem test_witness_step :
    atNop.romLoaded = true ∧ atNop.masterCount % 3 = 0 ∧ atNop.cpu.cyclesRemaining = 0 ∧ atNop.dma.transferring = false
      ∧ atNop.dmcStall = 0 ∧ (¬ ReadHasSideEffect atNop.cpu.pc)
      ∧ decode [readsAs (dotPhase atNop) atNop.cpu.pc, readsAs (dotPhase atNop) (atNop.cpu.pc + 1), readsAs (dotPhase atNop) (atNop.cpu.pc + 2)]
          = .instr .nop [0, 0] := by
  unfold ReadHasSideEffect; decide +kernel

/-- EveryLoadedStepAnswers and CpuHasEveryThirdMasterCycle: each clause. -/
theorem test_witness_master :
    State.reset.romLoaded = true ∧ newSystem.romLoaded = false ∧ State.reset.masterCount % 3 = 0
      ∧ ({ State.reset with masterCount := 1 } : State).masterCount % 3 ≠ 0 := by decide +kernel

/-- InstructionOccupiesItsCycles, StepNeverChangesRomOrParameters: a next state of `clock()` at a boundary, and of step. -/
theorem test_witness_clock :
    atNop.cpu.cyclesRemaining = 0 ∧ atNop.config.tickModel = .n ∧ (∃ t, clock atNop = .next t) ∧ ∃ t, step atNop = .next t :=
  ⟨rfl, rfl, ⟨_, rfl⟩, ⟨_, rfl⟩⟩

/-- DmaAndStallHoldTheCpu: each clause. -/
theorem test_witness_dma :
    (busWrite 0x4014 0x02 State.reset).dma.transferring = true ∧ State.reset.dma.transferring = false
      ∧ 0 < ({ State.reset with dmcStall := 1 } : State).dmcStall := by decide +kernel

/-- OamDmaMovesAPageInItsSlots: pages $00, $1F, $60 and $FF are quiet, page $20 is not. -/
theorem test_witness_dma_pages :
    (∀ v ∈ [0x00, 0x1F, 0x60, (0xFF : Byte)], ∀ i : Byte, ¬ ReadHasSideEffect (mkWord v i)) ∧ ReadHasSideEffect (mkWord 0x20 0x02) := by
  have h : ∀ v i : Byte, (mkWord v i).toNat = v.toNat * 256 + i.toNat := by
    intro v i
    have hi := i.isLt
    simp only [mkWord, BitVec.toNat_append]
    rw [Nat.shiftLeft_eq, Nat.mul_comm, ← Nat.two_pow_add_eq_or_of_lt hi, Nat.mul_comm]
  unfold ReadHasSideEffect
  refine ⟨fun v hv i => ?_, by rw [h]; decide +kernel⟩
  have hi := i.isLt
  have hn : v.toNat = 0x00 ∨ v.toNat = 0x1F ∨ v.toNat = 0x60 ∨ v.toNat = 0xFF := by
    simp only [List.mem_cons, List.not_mem_nil, or_false] at hv
    rcases hv with h | h | h | h <;> subst h <;> decide
  rw [h]
  omega

/-- StepKeepsTheInvariant, RunFrameReturnsAtThePreRenderLine: a System under way, on the last dot of the grid. -/
def underWay : State :=
  { with_ (cpuAt 0xC000 1 2 3 0x00 0x24) [(0x7FF, 0x11)] with ppu := { Ppu.reset with scanline := 260, cycle := 340 } }

theorem test_witness_invariant : underWay.Inv ∧ underWay.romLoaded = true ∧ ∃ t, step underWay = .next t :=
  ⟨{ status := ⟨by decide +kernel, by decide +kernel⟩
     memory := ⟨⟨⟨by decide +kernel, by decide +kernel⟩, by unfold Memory.below; decide +kernel⟩,
       ⟨Memory.nil_ok _, Memory.nil_ok _, Memory.nil_ok _, by decide +kernel, by decide +kernel⟩,
       ⟨Memory.nil_ok _, Memory.nil_ok _, Memory.nil_ok _, Memory.nil_ok _⟩, ⟨⟨.nil, nofun⟩, nofun⟩⟩
     grid := by unfold GridOk; decide +kernel
     sprites := by unfold SpritesOk; decide +kernel
     pacing := by unfold PacingOk; decide +kernel
     sequencer := by unfold SequencerOk; decide +kernel
     channels := by unfold ChannelsOk; decide +kernel },
    rfl, ⟨_, rfl⟩⟩

/-- FrameCounterRaisesItsIrqOnTheLastStep: both modes. -/
theorem test_witness_frame_counter :
    (Apu.reset 44100).frame.frameCycle = 0 ∧ (Apu.reset 44100).frame.irq = false ∧ (Apu.reset 44100).frame.fiveStep = false
      ∧ (writeFrameCounter 0x80 (Apu.reset 44100)).frame.frameCycle = 0 ∧ (writeFrameCounter 0x80 (Apu.reset 44100)).frame.irq = false
      ∧ (writeFrameCounter 0x80 (Apu.reset 44100)).frame.fiveStep = true := by decide +kernel

/-- ControllerReadsItsButtonsInOrder, ScrollAndAddressWrites. -/
theorem test_witness_strobe_and_latch : (0x01 : Byte).getLsbD 0 = true ∧ State.reset.ppu.w = false := by decide

/-- PpuDataPort: v at the ends of each range, CHR RAM and CHR ROM. -/
theorem test_witness_data_port :
    (0x1FFF : BitVec 15).toNat % 0x4000 < 0x2000 ∧ 0x2000 ≤ (0x2000 : BitVec 15).toNat % 0x4000
      ∧ (0x3EFF : BitVec 15).toNat % 0x4000 < 0x3F00 ∧ 0x3F00 ≤ (0x3F00 : BitVec 15).toNat % 0x4000
      ∧ 0x3F00 ≤ (0x7FFF : BitVec 15).toNat % 0x4000 ∧ Cartridge.blank.variant = .nrom ∧ Cartridge.blank.chrSize = 0x2000
      ∧ Cartridge.blank.chrRamFrom = 0 ∧ ({ Cartridge.blank with chrRamFrom := 0x2000 } : Cartridge).chrRamFrom = 0x2000 := by
  decide +kernel

/-- NametablePaletteAndOamAddressing: mirrors of each mode, at the ends of the nametables, and of the palette. -/
theorem test_witness_mirrors :
    State.reset.cart.mirroring = .horizontal ∧ (0x2000 : PpuAddr).toNat % 0x400 = (0x2400 : PpuAddr).toNat % 0x400
      ∧ (0x2000 : PpuAddr).toNat / 0x800 % 2 = (0x2400 : PpuAddr).toNat / 0x800 % 2
      ∧ (0x2EFF : PpuAddr).toNat % 0x400 = (0x3EFF : PpuAddr).toNat % 0x400 ∧ (0x3EFF : PpuAddr).toNat < 0x3F00
      ∧ (0x2EFF : PpuAddr).toNat / 0x400 % 4 = (0x3EFF : PpuAddr).toNat / 0x400 % 4
      ∧ (0x3F1C : PpuAddr).toNat % 4 = 0 ∧ (0x3F1C : PpuAddr).toNat % 16 = (0x3F0C : PpuAddr).toNat % 16
      ∧ (0x3F00 : PpuAddr).toNat % 32 = (0x3FE0 : PpuAddr).toNat % 32 := by decide +kernel

/-- NametablePaletteAndOamAddressing: an address of the same byte and one of another, in the nametables and the palette, and v on each side
of $2000. -/
theorem test_witness_same_ppu_byte :
    SamePpuByte .horizontal 0x2000 0x2400 ∧ SamePpuByte .singleScreenLow 0x2000 0x2C00 ∧ SamePpuByte .fourScreen 0x2EFF 0x3EFF
      ∧ SamePpuByte .horizontal 0x3F00 0x3FF0 := by unfold SamePpuByte; decide +kernel

theorem test_witness_other_ppu_byte :
    ¬ SamePpuByte .horizontal 0x2000 0x2800 ∧ ¬ SamePpuByte .vertical 0x2000 0x2400 ∧ ¬ SamePpuByte .fourScreen 0x2000 0x2C00
      ∧ ¬ SamePpuByte .horizontal 0x3F01 0x3F11 ∧ ¬ SamePpuByte .horizontal 0x3EFF 0x3F00 := by unfold SamePpuByte; decide +kernel

theorem test_witness_data_address :
    0x2000 ≤ (BitVec.ofNat 14 ((0x2000 : BitVec 15).toNat % 0x4000)).toNat
      ∧ (BitVec.ofNat 14 ((0x5FFF : BitVec 15).toNat % 0x4000)).toNat < 0x2000 ∧ (0x1FFE : PpuAddr) ≠ 0x1FFF := by decide +kernel

/-- DotsWalkTheFrame: a position for each clause. -/
theorem test_witness_dots :
    renderingEnabled { Ppu.reset with mask := 0x08, oddFrame := true } = true ∧ Ppu.reset.scanline = 0 ∧ Ppu.reset.cycle = 0
      ∧ underWay.ppu.scanline = 260 ∧ underWay.ppu.cycle = 340 ∧ -1 ≤ ({ Ppu.reset with scanline := -1, cycle := 1 } : Ppu).scanline
      ∧ ({ Ppu.reset with scanline := 241, cycle := 1 } : Ppu).scanline ≤ 260 := by decide +kernel

/-- SpriteEvaluationTakesTheFirstEight: the eighth of nine sprites found, its last byte. -/
theorem test_witness_evaluation :
    (let p := nineSprites
     let found := (List.range 64).filter fun e =>
       decide (0 ≤ p.scanline - (p.oam.read (4 * e)).toNat ∧ p.scanline - (p.oam.read (4 * e)).toNat < 8)
     Nat.beq found.length 9 && Nat.beq (found.getD 7 0) 7) = true := by decide +kernel

/-- MapperCountersAndMirroring: a cartridge of each variant, unlocked with a region of appended RAM, and the ends of each range. -/
theorem test_witness_mappers :
    ∀ v, ∃ c : Cartridge, c.variant = v ∧ c.mapper.vlock = false ∧ c.mapper.banks.getD ((0x1FFF : PpuAddr).toNat / 0x400) 0 = 5
      ∧ (0x1FFF : PpuAddr).toNat < 0x2000 ∧ 0x8000 ≤ (0x8000 : Word).toNat ∧ (0x7FFF : Word).toNat < 0x8000
      ∧ 0x4100 ≤ (0x4100 : Word).toNat ∧ (0x5FFF : Word).toNat < 0x6000 ∧ (0x40FF : Word).toNat < 0x4100 :=
  fun v => ⟨{ Cartridge.blank with variant := v, mapper := { MapperRegs.blank with banks := [0, 0, 0, 0, 0, 0, 0, 5] } }, by
    cases v <;> decide +kernel⟩

/-- MapperCountersAndMirroring: a pending request, and a region of mapper 253 that is locked. -/
theorem test_witness_pending_and_locked :
    ({ MapperRegs.blank with irqPending := true } : MapperRegs).irqPending = true
      ∧ ({ MapperRegs.blank with vlock := true } : MapperRegs).vlock = true ∧ (0x0000 : PpuAddr).toNat < 0x2000 := by decide

/-- ApuChannelWritesAndDmcReader: a DMC between clocks, at a clock within a byte, at a byte boundary with and without a byte left. -/
theorem test_witness_dmc :
    0 < ({ Dmc.reset with timer := 1 } : Dmc).timer ∧ Dmc.reset.timer = 0 ∧ 1 < Dmc.reset.bitsRemaining
      ∧ ({ Dmc.reset with bitsRemaining := 1 } : Dmc).bitsRemaining = 1 ∧ Dmc.reset.bytesRemaining = 0
      ∧ 0 < ({ Dmc.reset with bitsRemaining := 1, bytesRemaining := 17 } : Dmc).bytesRemaining := by decide +kernel

/-- LoadRomReadsTheFile: a file for each clause: a wrong magic, no PRG bank, one byte short, an unsupported mapper, and one of 16 KB that loads. -/
theorem test_witness_files :
    (16 + 16383 < 16 + 1 * 16384) ∧ 8 + (List.replicate 16392 (0 : Byte)).length ≥ 16 + 1 * 16384 ∧ mapperOfNumber 20 = none
      ∧ mapperOfNumber 0 = some .nrom ∧ mapperOfNumber 253 = some .waixingVrc4
      ∧ ([0x4E, 0x45, 0x53, 0x1B] : List Byte).take 4 ≠ [0x4E, 0x45, 0x53, 0x1A] := by
  refine ⟨by decide, ?_, by decide, by decide, by decide, by decide⟩
  rw [List.length_replicate]

end Sys2Proof.Machine.Tests
end

section
/-! PROOFS. The family 20_memory.md: the RAM mirrors (R93) and JMP with its indirect pointer (R85, R152, R280). -/

namespace Sys2Proof.Machine

/-! ## The RAM mirrors -/

/-- R93: two addresses of one internal RAM byte read alike. -/
theorem SameRamByte.readsAs_eq {a b : Word} (h : SameRamByte b a) (s : State) : readsAs s b = readsAs s a := by
  obtain ⟨hb, ha, hmod⟩ := h
  rw [readsAs_ram s hb, readsAs_ram s ha, hmod]

/-- R93: a bus write to internal RAM stores its byte, and nothing else. -/
theorem busWrite_ramStored {a : Word} (v : Byte) {s : State} (hwf : s.ram.wf) (ha : InRam a) :
    RamStored [(a, v)] s (busWrite a v s) := by
  rw [busWrite_ram v s ha]
  exact ramStored_of [(a, v)] rfl hwf (by simp [ha]) (by simp) (.refl _)

/-- Settles O5: the write stores one RAM byte, and the addresses that name that byte are the mirrors. -/
theorem ramMirrorsEveryTwoKilobytes : Obligations.RamMirrorsEveryTwoKilobytes := by
  unfold Obligations.RamMirrorsEveryTwoKilobytes
  intro s a v hmem ha
  obtain ⟨⟨hwf, -⟩, -⟩ := hmem
  obtain ⟨hstored, hother, -⟩ := busWrite_ramStored v hwf ha
  refine ⟨fun b hb => ?_, fun b hb => hother b (by simpa using hb)⟩
  rw [hb.readsAs_eq]
  exact hstored (a, v) (by simp)

/-! ## Jumps -/

/-- R85, R90: outside the CPU, reading the indirect pointer has the side effects of reads and no more. -/
theorem readWordJmpInd_effects (a : Word) (s : State) : ReadEffectsOnly s (readWordJmpInd a s).2 := by
  unfold readWordJmpInd
  exact (busRead_effects a s).trans (busRead_effects _ _)

@[simp] theorem readWordJmpInd_config (a : Word) (s : State) : (readWordJmpInd a s).2.config = s.config := by
  simp [readWordJmpInd]

theorem exec_jmp_abs (w : Word) (s : State) : exec (.jmp (.abs w)) s = .next (complete 3 (setPc w s)) := rfl

theorem exec_jmp_ind (w : Word) (s : State) :
    exec (.jmp (.ind w)) s = .next (complete 5 (setPc (readWordJmpInd w s).1 (readWordJmpInd w s).2)) := rfl

/-- R280, R401: a jump out of `u`, the System after any reads the instruction that started in `s` has made: PC is the target, the
cycles are counted, no other register and no flag but U changes, and outside the CPU all is as in `u`. -/
theorem jump_complete {s u : State} (target : Word) (n : Nat) (hcpu : u.cpu = s.cpu) (hconfig : u.config = s.config) :
    RegsAre (complete n (setPc target u)) s.cpu.a s.cpu.x s.cpu.y s.cpu.sp target
      ∧ OnlyFlags [] s (complete n (setPc target u)) ∧ Paced n s (complete n (setPc target u))
      ∧ SameOutsideCpu u (complete n (setPc target u)) := by
  refine ⟨?_, onlyFlags_complete n ?_, paced_complete n ?_ hconfig, same_complete n (sameOutsideCpu_setPc target u)⟩
  · simp [RegsAre, hcpu]
  · simp [hcpu]
  · simp [hcpu]

/-- Settles O25: both forms end as `jump_complete` says, the indirect one after the reads of `readWordJmpInd`, which are by its
definition the two the statement writes out. -/
theorem jumpsComplete : Obligations.JumpsComplete := by
  unfold Obligations.JumpsComplete
  intro w s w1
  refine ⟨?abs, ?ind⟩
  case abs =>
    obtain ⟨hregs, hflags, hpaced, hsame⟩ := jump_complete (s := s) w 3 rfl rfl
    exact ⟨_, exec_jmp_abs w s, hregs, hflags, hpaced, nothingStored_of_same hsame⟩
  case ind =>
    obtain ⟨hregs, hflags, hpaced, hsame⟩ :=
      jump_complete (readWordJmpInd w s).1 5 (readWordJmpInd_cpu w s) (readWordJmpInd_config w s)
    have heffects := (readWordJmpInd_effects w s).trans (.of_same hsame)
    refine ⟨_, exec_jmp_ind w s, hregs, hflags, hpaced, hsame, onlyRead_of heffects, fun hw hw1 => ?_⟩
    rw [readWordJmpInd_quiet w s hw hw1] at hsame ⊢
    exact nothingStored_of_same hsame

end Sys2Proof.Machine
end

section
/-! PROOFS. The family 30_encoding.md: every opcode byte decodes and encodes back (R140, R158, R159, R161), the effective address of every
memory mode (R145 to R154), and the value and cycles of an operand (R144, R155, R156, R158, R251). -/

namespace Sys2Proof
open Sys2Proof.Machine

/-! ## Every opcode byte decodes -/

theorem MemMode.length_cases (m : MemMode) : m.length = 2 ∨ m.length = 3 := by
  cases m <;> simp [MemMode.length]

theorem ReadOperand.length_cases (o : ReadOperand) : o.length = 2 ∨ o.length = 3 := by
  cases o
  case imm b => exact .inl rfl
  case mem m => exact m.length_cases

theorem ShiftOperand.length_cases (o : ShiftOperand) : o.length = 1 ∨ o.length = 2 ∨ o.length = 3 := by
  cases o
  case acc => exact .inl rfl
  case mem m => exact .inr m.length_cases

/-- R140: an instruction has one, two or three bytes. -/
theorem Instr.length_cases (i : Instr) : i.length = 1 ∨ i.length = 2 ∨ i.length = 3 := by
  cases i
  case lda o | ldx o | ldy o | adc o | sbc o | and o | ora o | eor o | cmp o | cpx o | cpy o => exact .inr o.length_cases
  case sta m | stx m | sty m | bit m | inc m | dec m => exact .inr m.length_cases
  case asl o | lsr o | rol o | ror o => exact o.length_cases
  all_goals simp [Instr.length]

theorem encode_of_opcode {i : Instr} {op : Byte} (h : i.opcode = some op) : encode i = op :: i.operandBytes := by
  simp [encode, h]

@[simp] theorem wordBytes_mkWord (hi lo : Byte) : wordBytes (mkWord hi lo) = [lo, hi] := by
  simp [wordBytes]

/-- R140, R158: a row of the map encodes to its opcode and the operand bytes its length takes. -/
theorem encode_of_mem_legalTable {op b1 b2 : Byte} {i : Instr} (h : (op, i) ∈ legalTable b1 (mkWord b2 b1)) :
    encode i = [op, b1, b2].take i.length := by
  obtain ⟨-, hop, hoperands⟩ := row_spec b1 (mkWord b2 b1) h
  rw [encode_of_opcode hop, hoperands]
  rcases i.length_cases with hlen | hlen | hlen <;> simp [hlen]

/-- R161: whatever the opcode and operand bytes, the instruction they decode to is one of the table's 256 rows. -/
theorem decodeByte_wf (op b1 b2 : Byte) : (decodeByte op b1 b2).wf = true := by
  rcases decodeByte_cases op b1 b2 with ⟨hrow, -⟩ | ⟨hillegal, hdecode⟩
  · obtain ⟨hwf, -, -⟩ := row_spec b1 (mkWord b2 b1) hrow
    exact hwf
  · rw [hdecode]
    exact List.contains_iff_mem.mpr hillegal

/-- R140, R159: encoding what was decoded gives the opcode and the operand bytes it took. -/
theorem encode_decodeByte (op b1 b2 : Byte) : encode (decodeByte op b1 b2) = [op, b1, b2].take (decodeByte op b1 b2).length := by
  rcases decodeByte_cases op b1 b2 with ⟨hrow, -⟩ | ⟨-, hdecode⟩
  · exact encode_of_mem_legalTable hrow
  · rw [hdecode]
    rfl

/-- Settles O4: a legal opcode is a row of the map, whose bytes `encode_of_mem_legalTable` gives; an illegal one is the one-byte no-op. -/
theorem everyOpcodeByteDecodes : Obligations.EveryOpcodeByteDecodes := by
  unfold Obligations.EveryOpcodeByteDecodes
  intro op b1 b2
  have hlen := decodeByte_length op b1 b2
  exact ⟨decodeByte_wf op b1 b2, hlen, hlen ▸ encode_decodeByte op b1 b2⟩

end Sys2Proof

namespace Sys2Proof.Machine

/-! ## Effective addresses -/

/-- R84: a zero-page pointer's bytes are what the bus reads at p and (p + 1) mod 256, and reading them changes nothing. -/
theorem readWordZP_readsAs (p : Byte) (s : State) :
    readWordZP p s = (mkWord (readsAs s (zext16 (p + 1))) (readsAs s (zext16 p)), s) := by
  unfold readWordZP readsAs
  simp only [busRead_ram s (inRam_zext16 _)]

/-- R150, R151, R154, R16: an indexed address, and its page against the base's. -/
theorem indexed_spec (base : Word) (index : Byte) (s : State) :
    (indexed base index s).ea = base + index.setWidth 16
      ∧ (indexed base index s).crossed = decide (base.toNat / 256 ≠ (indexed base index s).ea.toNat / 256) :=
  ⟨rfl, crossed_eq _ _⟩

theorem effective_izx (b : Byte) (s : State) :
    effective (.izx b) s =
      { ea := mkWord (readsAs s (zext16 (b + s.cpu.x + 1))) (readsAs s (zext16 (b + s.cpu.x))), crossed := false, state := s } := by
  simp only [effective, readWordZP_readsAs]

theorem effective_izy (b : Byte) (s : State) :
    effective (.izy b) s = indexed (mkWord (readsAs s (zext16 (b + 1))) (readsAs s (zext16 b))) s.cpu.y s := by
  simp only [effective, readWordZP_readsAs]

/-- R145 to R154: the effective address and the crossed flag are those of the mode's rule. -/
theorem effective_addressIs (m : MemMode) (s : State) : AddressIs s (effective m s).ea (effective m s).crossed m := by
  cases m
  case zp b | zpx b | zpy b | abs w => exact ⟨rfl, rfl⟩
  case absx w => exact indexed_spec w s.cpu.x s
  case absy w => exact indexed_spec w s.cpu.y s
  case izx b =>
    rw [effective_izx]
    exact ⟨rfl, rfl⟩
  case izy b =>
    rw [effective_izy]
    exact indexed_spec _ s.cpu.y s

/-- Settles O8: `effective_addressIs` gives the address of every mode, and pointers are read from RAM, which no read changes. -/
theorem effectiveAddressOfEveryMode : Obligations.EffectiveAddressOfEveryMode := by
  unfold Obligations.EffectiveAddressOfEveryMode
  intro m s
  exact ⟨effective_state m s, effective_addressIs m s⟩

/-! ## Operand values and cycles -/

/-- R155: the cycle that a crossed page adds to a count. -/
theorem add_bitNat (n : Nat) (c : Bool) : n + bitNat c = if c then n + 1 else n := by
  cases c <;> rfl

/-- R155, R158: a read takes the base count of its mode, and one cycle more when a page was crossed. -/
theorem readOperand_mem_cycles (m : MemMode) (s : State) :
    (readOperand (.mem m) s).cycles = if (effective m s).crossed then readBase m + 1 else readBase m :=
  add_bitNat (readBase m) (effective m s).crossed

/-- Settles O9: only absx, absy and izy can cross a page, so in the other modes the base count is the count. -/
theorem operandValuesAndPageCrossingCycles : Obligations.OperandValuesAndPageCrossingCycles := by
  unfold Obligations.OperandValuesAndPageCrossingCycles
  intro s
  refine ⟨fun b => ⟨rfl, rfl, rfl⟩, fun m => ⟨readMem_value m s, ?cycles, ?rmw⟩⟩
  case cycles =>
    rw [readOperand_mem_cycles]
    cases m <;> rfl
  case rmw =>
    cases m
    case zp b | zpx b | abs w | absx w => rfl
    case zpy b | absy w | izx b | izy b => trivial

end Sys2Proof.Machine
end

section
/-! PROOFS. The family 41_arithmetic_logic.md: the compares (R237 to R240), over the end every instruction that reads an operand shares. -/

namespace Sys2Proof.Machine

/-! ## Instructions that read an operand and store nothing -/

/-- R156, R401: the next state of an instruction that reads the operand `o`, leaves the CPU's registers as `r` and stores nothing. -/
def finishOperand (o : ReadOperand) (r : Cpu) (s : State) : State :=
  complete (readOperand o s).cycles (setCpu r (readOperand o s).state)

theorem finishOperand_regsAre (o : ReadOperand) (r : Cpu) (s : State) : RegsAre (finishOperand o r s) r.a r.x r.y r.sp r.pc := by
  simp [finishOperand, RegsAre]

/-- R401: completion sets U and leaves every other flag as the operation made it. -/
theorem finishOperand_flag (o : ReadOperand) (r : Cpu) (s : State) {f : Flag} (hf : f ≠ .u) :
    (finishOperand o r s).cpu.flag f = r.flag f := by
  simp [finishOperand, hf]

theorem finishOperand_onlyFlags {fs : List Flag} {r : Cpu} {s : State} (o : ReadOperand)
    (h : ∀ f, f ≠ .u → f ∉ fs → r.flag f = s.cpu.flag f) : OnlyFlags fs s (finishOperand o r s) :=
  onlyFlags_complete _ h

theorem finishOperand_paced {r : Cpu} {s : State} (o : ReadOperand) (h : r.totalCycles = s.cpu.totalCycles) :
    Paced (readOperand o s).cycles s (finishOperand o r s) :=
  paced_complete _ h (readOperand_config o s)

theorem finishOperand_frame (o : ReadOperand) (r : Cpu) (s : State) : OperandFrame o s (finishOperand o r s) :=
  operandFrame_of (same_complete _ (sameOutsideCpu_setCpu r _))

/-! ## Compares -/

theorem exec_cmp (o : ReadOperand) (s : State) :
    exec (.cmp o) s = .next (finishOperand o (compare s.cpu.a (readOperand o s).value s.cpu) s) := by
  simp only [exec, execCmp, readOperand_cpu, finishOperand]

theorem exec_cpx (o : ReadOperand) (s : State) :
    exec (.cpx o) s = .next (finishOperand o (compare s.cpu.x (readOperand o s).value s.cpu) s) := by
  simp only [exec, execCpx, readOperand_cpu, finishOperand]

theorem exec_cpy (o : ReadOperand) (s : State) :
    exec (.cpy o) s = .next (finishOperand o (compare s.cpu.y (readOperand o s).value s.cpu) s) := by
  simp only [exec, execCpy, readOperand_cpu, finishOperand]

/-- R237: a comparison changes C, Z and N alone. -/
theorem compare_flag_other (reg m : Byte) (r : Cpu) {f : Flag} (hf : f ∉ [.n, .z, .c]) : (compare reg m r).flag f = r.flag f := by
  rw [compare_flag]
  cases f
  case n | z | c => simp at hf
  all_goals rfl

/-- R237: the end of a comparison of `reg` with the operand, whichever register `reg` is the value of. -/
theorem compare_finish (o : ReadOperand) (reg : Byte) (s : State) :
    let v := readOperand o s
    let t := finishOperand o (compare reg v.value s.cpu) s
    RegsAre t s.cpu.a s.cpu.x s.cpu.y s.cpu.sp s.cpu.pc ∧ t.cpu.flag .c = decide (v.value.toNat ≤ reg.toNat)
      ∧ t.cpu.flag .z = decide (reg = v.value) ∧ t.cpu.flag .n = (reg - v.value).msb
      ∧ OnlyFlags [.n, .z, .c] s t ∧ Paced v.cycles s t ∧ OperandFrame o s t := by
  intro v t
  have hflag : ∀ f : Flag, f ≠ .u → t.cpu.flag f = (compare reg v.value s.cpu).flag f := fun _ => finishOperand_flag o _ s
  refine ⟨finishOperand_regsAre o _ s, ?c, ?z, ?n, ?others, finishOperand_paced o rfl, finishOperand_frame o _ s⟩
  case c => rw [hflag _ (by decide), compare_flag]
  case z => rw [hflag _ (by decide), compare_flag]
  case n => rw [hflag _ (by decide), compare_flag]
  case others => exact finishOperand_onlyFlags o fun _ _ hf => compare_flag_other reg v.value s.cpu hf

/-- Settles O19: the three instructions end as `compare_finish` says, for A, X and Y. -/
theorem comparesComplete : Obligations.ComparesComplete := by
  unfold Obligations.ComparesComplete
  intro o s v done
  exact ⟨⟨_, exec_cmp o s, compare_finish o s.cpu.a s⟩, ⟨_, exec_cpx o s, compare_finish o s.cpu.x s⟩,
    ⟨_, exec_cpy o s, compare_finish o s.cpu.y s⟩⟩

end Sys2Proof.Machine
end

section
/-! PROOFS. The family 42_control_flow.md: the eight branches (R148, R270 to R279). -/

namespace Sys2Proof.Machine

/-! ## Branches -/

/-- R279 (D10): a taken branch takes 3 cycles, and 4 when the target is on another page than the next instruction. -/
theorem taken_cycles (pcNext target : Word) :
    2 + takenPenalty pcNext target = if pcNext.toNat / 256 = target.toNat / 256 then 3 else 4 := by
  unfold takenPenalty
  rw [← Nat.add_assoc, add_bitNat, crossed_eq]
  simp only [decide_eq_true_eq, ite_not]

/-- R270: a branch is a jump, to the target or to the next instruction, that differs from JMP in its cycles alone. -/
theorem branch_eq_jump (cond : Bool) (off : Byte) (s : State) :
    let target := s.cpu.pc + off.signExtend 16
    branch cond off s =
      complete (if cond then (if s.cpu.pc.toNat / 256 = target.toNat / 256 then 3 else 4) else 2)
        (setPc (if cond then target else s.cpu.pc) s) := by
  cases cond
  case false => rfl
  case true => exact congrArg (fun n => complete n _) (taken_cycles s.cpu.pc (branchTarget s.cpu.pc off))

/-- R270, R279: what a branch does is what `jump_complete` says of the jump it is. -/
theorem branch_result (cond : Bool) (off : Byte) (s : State) : BranchResult cond off s (branch cond off s) := by
  unfold BranchResult
  rw [branch_eq_jump]
  obtain ⟨hregs, hflags, hpaced, hsame⟩ := jump_complete (s := s) (u := s) _ _ rfl rfl
  exact ⟨hregs, hflags, nothingStored_of_same hsame, hpaced⟩

/-- An instruction that runs the common branch semantics on a condition completes as a branch on it. -/
theorem completes_of_branch {i : Instr} {cond : Bool} {off : Byte} {s : State} (h : exec i s = .next (branch cond off s)) :
    Completes i s (BranchResult cond off s) :=
  ⟨branch cond off s, h, branch_result cond off s⟩

/-- Settles O24: R271 to R278 run `branch`, each on its own flag, and `branch_result` says what that does. -/
theorem branchesComplete : Obligations.BranchesComplete := by
  unfold Obligations.BranchesComplete
  intro off s
  refine ⟨?bcc, ?bcs, ?beq, ?bmi, ?bne, ?bpl, ?bvc, ?bvs⟩
  all_goals exact completes_of_branch rfl

end Sys2Proof.Machine
end

section
/-! PROOFS. The family 61_platform_devices.md, the APU: its frame counter, status register, channels and DMC (R421, R422, R541 to
R557). -/

namespace Sys2Proof.Machine

/-! ## Fields as numbers -/

/-- R10: a field of a word is a digit of its number. -/
@[simp] theorem toNat_getField {n : Nat} (v : BitVec n) (lo w : Nat) : (getField v lo w).toNat = v.toNat / 2 ^ lo % 2 ^ w := by
  simp [getField, Nat.shiftRight_eq_div_pow]

/-- A field that was put in is the middle of the number, between the bits above it and the bits below it. -/
theorem toNat_putField {n w : Nat} (v : BitVec n) (lo : Nat) (x : BitVec w) (h : lo + w ≤ n) :
    (putField v lo x).toNat = (v.toNat / 2 ^ (lo + w) * 2 ^ w + x.toNat) * 2 ^ lo + v.toNat % 2 ^ lo := by
  rw [Nat.mul_comm, Nat.mul_comm (v.toNat / _)]
  apply Nat.eq_of_testBit_eq
  intro i
  rw [Nat.testBit_two_pow_mul_add _ (Nat.mod_lt _ (Nat.two_pow_pos lo)), Nat.testBit_two_pow_mul_add _ x.isLt, Nat.testBit_mod_two_pow,
    Nat.testBit_div_two_pow]
  have hbit := bitAt_putField v lo x i
  simp only [bitAt, BitVec.getLsbD] at hbit
  rw [hbit]
  by_cases hlo : i < lo
  · simp [hlo, show i < n by omega, show ¬ lo ≤ i by omega]
  · by_cases hw : i < lo + w
    · simp [hlo, hw, show i < n by omega, show lo ≤ i by omega, show i - lo < w by omega]
    · have hindex : i - lo - w + (lo + w) = i := by omega
      by_cases hn : i < n
      · simp [hlo, hw, hn, hindex, show ¬ i - lo < w by omega]
      · have hzero : v.toNat.testBit i = false := BitVec.getLsbD_of_ge v i (Nat.not_lt.mp hn)
        simp [hlo, hn, hindex, hzero, show ¬ i - lo < w by omega]

/-! ## The frame counter -/

@[simp] theorem quarterFrame_frame (a : Apu) : (quarterFrame a).frame = a.frame := rfl

@[simp] theorem halfFrame_frame (a : Apu) : (halfFrame a).frame = a.frame := rfl

/-- R555: the clocks at a count change nothing of the frame counter but its IRQ flag, which the last of the four steps raises. -/
theorem frameClocks_frame (n : Nat) (a : Apu) :
    (frameClocks n a).frame =
      { a.frame with irq := a.frame.irq || (decide (n = lastFrameStep a.frame.fiveStep) && !a.frame.fiveStep && !a.frame.inhibit) } := by
  have hkept : ∀ b : Bool, b = false → a.frame = { a.frame with irq := a.frame.irq || b } := by
    rintro b rfl
    rw [Bool.or_false]
  unfold frameClocks
  split_ifs with h1 h2 h3 hlast hfive
  · exact hkept _ (by rw [h1]; cases a.frame.fiveStep <;> rfl)
  · exact hkept _ (by rw [h2]; cases a.frame.fiveStep <;> rfl)
  · exact hkept _ (by rw [h3]; cases a.frame.fiveStep <;> rfl)
  · exact hkept _ (by simp [hfive])
  · simp [raiseFrameIrq, hlast, hfive]
  · exact hkept _ (by simp [hlast])

/-- R555: a tick moves the count on, or back to 0 at the period's end, and keeps the mode and the inhibit bit. -/
theorem frameTick_frame (w : FrameWrap) (a : Apu) :
    (frameTick w a).frame =
      { a.frame with
        frameCycle := if a.frame.frameCycle + 1 = framePeriod w a.frame.fiveStep then 0 else a.frame.frameCycle + 1
        irq := a.frame.irq
          || (decide (a.frame.frameCycle + 1 = lastFrameStep a.frame.fiveStep) && !a.frame.fiveStep && !a.frame.inhibit) } :=
  frameClocks_frame _ _

theorem lastFrameStep_le_framePeriod (w : FrameWrap) (five : Bool) : lastFrameStep five ≤ framePeriod w five := by
  cases w
  · exact Nat.le_refl _
  · exact Nat.le_succ _

/-- R555: before its last step the sequence has counted its ticks and done nothing else to the frame counter. -/
theorem repeat_frameTick_frame_before {w : FrameWrap} {a : Apu} (hstart : a.frame.frameCycle = 0) (n : Nat)
    (hn : n < lastFrameStep a.frame.fiveStep) :
    (Nat.repeat (frameTick w) n a).frame = { a.frame with frameCycle := n } := by
  induction n with
  | zero => simp only [Nat.repeat, ← hstart]
  | succ n ih =>
    have hperiod : n + 1 ≠ framePeriod w a.frame.fiveStep :=
      Nat.ne_of_lt (Nat.lt_of_lt_of_le hn (lastFrameStep_le_framePeriod w _))
    simp only [Nat.repeat, frameTick_frame, ih (Nat.lt_of_succ_lt hn), if_neg hperiod, decide_eq_false (Nat.ne_of_lt hn),
      Bool.false_and, Bool.or_false]

/-- R555: the last step raises the frame IRQ in 4-step mode, if not inhibited, and sets the count back to 0 when the period ends there. -/
theorem repeat_frameTick_frame_last {w : FrameWrap} {a : Apu} (hstart : a.frame.frameCycle = 0) {n : Nat}
    (hn : n = lastFrameStep a.frame.fiveStep) :
    (Nat.repeat (frameTick w) n a).frame =
      { a.frame with
        frameCycle := if n = framePeriod w a.frame.fiveStep then 0 else n
        irq := a.frame.irq || (!a.frame.fiveStep && !a.frame.inhibit) } := by
  obtain ⟨m, rfl⟩ : ∃ m, n = m + 1 := Nat.exists_eq_succ_of_ne_zero (by rw [hn]; cases a.frame.fiveStep <;> decide)
  simp only [Nat.repeat, frameTick_frame, repeat_frameTick_frame_before hstart m (hn ▸ Nat.lt_succ_self m), decide_eq_true hn,
    Bool.true_and]

/-- R555, R556 (assumption 7): the count is 0 again after one period, in either reading. -/
theorem repeat_frameTick_period {w : FrameWrap} {a : Apu} (hstart : a.frame.frameCycle = 0) {n : Nat}
    (hn : n = framePeriod w a.frame.fiveStep) : (Nat.repeat (frameTick w) n a).frame.frameCycle = 0 := by
  cases w
  case atStep => rw [repeat_frameTick_frame_last hstart hn, if_pos hn]
  case afterStep =>
    have hlast := repeat_frameTick_frame_last (w := .afterStep) hstart rfl
    have hnot : lastFrameStep a.frame.fiveStep ≠ framePeriod .afterStep a.frame.fiveStep := Nat.ne_of_lt (Nat.lt_succ_self _)
    rw [if_neg hnot] at hlast
    rw [show n = lastFrameStep a.frame.fiveStep + 1 from hn, Nat.repeat, frameTick_frame, hlast]
    exact if_pos rfl

/-- R555: in 5-step mode no number of ticks raises the frame IRQ. -/
theorem repeat_frameTick_fiveStep {w : FrameWrap} {a : Apu} (hfive : a.frame.fiveStep = true) (n : Nat) :
    (Nat.repeat (frameTick w) n a).frame.fiveStep = true ∧ (Nat.repeat (frameTick w) n a).frame.irq = a.frame.irq := by
  induction n with
  | zero => exact ⟨hfive, rfl⟩
  | succ n ih =>
    obtain ⟨hmode, hirq⟩ := ih
    simp [Nat.repeat, frameTick_frame, hmode, hirq]

/-- R554: a write to $4017. -/
theorem busWrite_frameCounter (s : State) (d : Byte) :
    busWrite 0x4017 d s = { s with apu := writeFrameCounter d s.apu } := (WriteCase.frame rfl).eq

/-- R554: the write sets the frame counter, and clocks both frames at once in 5-step mode. -/
theorem writeFrameCounter_eq (d : Byte) (a : Apu) :
    writeFrameCounter d a =
      { (if d.getLsbD 7 then halfFrame (quarterFrame a) else a) with
        frame := { fiveStep := d.getLsbD 7, inhibit := d.getLsbD 6, frameCycle := 0, irq := a.frame.irq && !d.getLsbD 6 } } := by
  unfold writeFrameCounter bitAt
  split_ifs <;> rfl

/-- Settles O49: `repeat_frameTick_frame_before` says what the ticks before the last step leave, `repeat_frameTick_frame_last` what that
step does. -/
theorem frameCounterRaisesItsIrqOnTheLastStep : Obligations.FrameCounterRaisesItsIrqOnTheLastStep := by
  unfold Obligations.FrameCounterRaisesItsIrqOnTheLastStep
  refine ⟨fun w a hstart hclear => ?ticks, fun s d => ?write⟩
  case ticks =>
    intro run
    refine ⟨fun hfour n hn => ?before, fun hfour => ?last, fun hfive n => ?fiveStep, ?period⟩
    case before =>
      have hrun : run n = _ := repeat_frameTick_frame_before hstart n (by rw [hfour]; exact hn)
      rw [hrun]
      exact hclear
    case last =>
      have hrun : run 29829 = _ := repeat_frameTick_frame_last hstart (by rw [hfour]; rfl)
      rw [hrun]
      simp [hclear, hfour]
    case fiveStep => exact (repeat_frameTick_fiveStep hfive n).2.trans hclear
    case period =>
      refine repeat_frameTick_period hstart ?_
      cases w <;> cases a.frame.fiveStep <;> rfl
  case write =>
    rw [busWrite_frameCounter, writeFrameCounter_eq]
    exact ⟨rfl, rfl, rfl⟩

/-! ## The status register $4015 -/

/-- R553: the bits of the byte a read of $4015 returns. -/
theorem apuStatusByte_getLsbD (a : Apu) (k : Nat) :
    (apuStatusByte a).getLsbD k =
      match k with
      | 0 => decide (0 < a.pulse1.length)
      | 1 => decide (0 < a.pulse2.length)
      | 2 => decide (0 < a.triangle.length)
      | 3 => decide (0 < a.noise.length)
      | 4 => decide (0 < a.dmc.bytesRemaining)
      | 6 => a.frame.irq
      | 7 => a.dmc.irq
      | _ => false := by
  have hpos : ∀ n : Nat, (n != 0) = decide (0 < n) := fun n => by cases n <;> rfl
  unfold apuStatusByte
  simp only [hpos]
  -- The width as the sum of the pieces' widths, which is what `BitVec.getLsbD_append` speaks of.
  change BitVec.getLsbD (w := 1 + 1 + 1 + 1 + 1 + 1 + 1 + 1) _ k = _
  simp only [BitVec.getLsbD_append]
  match k with
  | 0 | 1 | 2 | 3 | 4 | 5 | 6 | 7 | k + 8 => simp

/-- R552: what a write of $4015 leaves of the DMC: its IRQ is cleared; disabled it is empty, enabled and empty it starts its sample. -/
theorem enableDmc_eq (on : Bool) (c : Dmc) :
    enableDmc on c =
      { c with
        bytesRemaining := if on then (if c.bytesRemaining = 0 then c.sampleLen else c.bytesRemaining) else 0
        currentAddr := if on ∧ c.bytesRemaining = 0 then c.sampleAddr else c.currentAddr
        irq := false } := by
  unfold enableDmc
  cases on
  · rfl
  · by_cases hempty : c.bytesRemaining = 0 <;> simp [hempty]

/-- Settles O50: the read's bits are those of `apuStatusByte_getLsbD`, and `enableDmc_eq` says what the write does to the DMC. -/
theorem apuStatusReadsAndWrites : Obligations.ApuStatusReadsAndWrites := by
  unfold Obligations.ApuStatusReadsAndWrites
  intro s d r t
  have hr : r = (apuStatusByte s.apu, { s with apu := clearFrameIrq s.apu }) := (ReadCase.status rfl).eq
  have ht : t = { s with apu := writeApuStatus d s.apu } := (WriteCase.status rfl).eq
  have hbit : ∀ k, r.1.getLsbD k = _ := fun k => by rw [hr, apuStatusByte_getLsbD]
  have hdmc : t.apu.dmc = enableDmc (d.getLsbD 4) s.apu.dmc := by rw [ht]; rfl
  have henable : t.apu.enable = getField d 0 5 := by rw [ht]; rfl
  rw [enableDmc_eq] at hdmc
  refine ⟨hbit 0, hbit 1, hbit 2, hbit 3, hbit 4, hbit 5, hbit 6, hbit 7, ?read, fun k hk => ?enable, ?pulse1, ?pulse2, ?triangle,
    ?noise, ?bytes, ?addr, ?irq, ?frame⟩
  case read => rw [hr]; rfl
  case enable =>
    rw [henable]
    simp [getField, hk]
  case pulse1 => rw [ht]; exact apply_ite Pulse.length _ _ _
  case pulse2 => rw [ht]; exact apply_ite Pulse.length _ _ _
  case triangle => rw [ht]; exact apply_ite Triangle.length _ _ _
  case noise => rw [ht]; exact apply_ite Noise.length _ _ _
  case bytes | addr | irq => rw [hdmc]
  case frame => rw [ht]; rfl

/-! ## The channel registers -/

/-- R541: the second register of a channel with an 11-bit period loads the low byte of the period. -/
theorem toNat_putField_low (period : BitVec 11) (d : Byte) : (putField period 0 d).toNat = period.toNat / 256 * 256 + d.toNat := by
  rw [toNat_putField _ _ _ (by decide)]
  simp [Nat.mod_one]

/-- R541: the fourth register loads its three high bits. -/
theorem toNat_putField_high (period : BitVec 11) (d : Byte) :
    (putField period 8 (getField d 0 3)).toNat = d.toNat % 8 * 256 + period.toNat % 256 := by
  have hperiod := period.isLt
  rw [toNat_putField _ _ _ (by decide), toNat_getField]
  omega

/-- R545: the length a write loads is the one the statement reads from the table. -/
theorem loadLength_eq (enabled : Bool) (d : Byte) (old : Nat) : loadLength enabled d old = lengthLoaded enabled d old := by
  have hindex : (getField d 3 5).toNat = d.toNat / 8 := by
    have hd := d.isLt
    rw [toNat_getField]
    omega
  unfold loadLength lengthLoaded
  rw [hindex]

/-- R541: the four registers of a pulse channel. -/
theorem writePulse_written {d : Byte} {enabled : Bool} {p : Pulse} {r : Nat → Pulse}
    (h : ∀ k, k < 4 → r k = writePulse k d enabled p) : PulseWritten d enabled p r := by
  unfold PulseWritten
  have hd := d.isLt
  rw [h 0 (by decide), h 1 (by decide), h 2 (by decide), h 3 (by decide)]
  refine ⟨⟨?duty, rfl, rfl, ?volume, rfl⟩, ⟨rfl, ?period, rfl, ?shift, rfl, rfl, rfl⟩, ⟨toNat_putField_low _ _, rfl⟩,
    ⟨toNat_putField_high _ _, ?length⟩⟩
  case duty => simp only [writePulse, toNat_getField]; omega
  case volume => simp only [writePulse, writeEnvelope, toNat_getField]; omega
  case period => simp only [writePulse, toNat_getField]; omega
  case shift => simp only [writePulse, toNat_getField]; omega
  case length => simp only [writePulse, loadLength_eq]

/-- R546: the four registers of the triangle. -/
theorem writeTriangle_written {d : Byte} {enabled : Bool} {t : Triangle} {r : Nat → Triangle}
    (h : ∀ k, k < 4 → r k = writeTriangle k d enabled t) : TriangleWritten d enabled t r := by
  unfold TriangleWritten
  rw [h 0 (by decide), h 1 (by decide), h 2 (by decide), h 3 (by decide)]
  refine ⟨⟨?linear, rfl⟩, rfl, ⟨toNat_putField_low _ _, rfl⟩, ⟨toNat_putField_high _ _, ?length⟩⟩
  case linear => simp only [writeTriangle, toNat_getField]; omega
  case length => simp only [writeTriangle, loadLength_eq]

/-- R547: the four registers of the noise channel. -/
theorem writeNoise_written {d : Byte} {enabled : Bool} {n : Noise} {r : Nat → Noise}
    (h : ∀ k, k < 4 → r k = writeNoise k d enabled n) : NoiseWritten d enabled n r := by
  unfold NoiseWritten
  rw [h 0 (by decide), h 1 (by decide), h 2 (by decide), h 3 (by decide)]
  refine ⟨⟨rfl, ?volume, rfl⟩, rfl, ⟨?period, rfl⟩, ?length⟩
  case volume => simp only [writeNoise, writeEnvelope, toNat_getField]; omega
  case period => simp only [writeNoise, toNat_getField]; omega
  case length => simp only [writeNoise, loadLength_eq]

/-- R548: a sample starts at a multiple of 64 from $C000 on. -/
theorem toNat_sampleAddr (d : Byte) : ((0xC000 : Word) ||| (zext16 d <<< 6)).toNat = 0xC000 + d.toNat * 64 := by
  have hd := d.isLt
  have hshift : (zext16 d <<< 6).toNat = d.toNat * 64 := by
    simp [zext16, Nat.shiftLeft_eq]
    omega
  rw [BitVec.toNat_or, hshift]
  exact (Nat.two_pow_add_eq_or_of_lt (i := 14) (by omega) 3).symm

/-- R548: the four registers of the DMC. -/
theorem writeDmc_written {d : Byte} {c : Dmc} {r : Nat → Dmc} (h : ∀ k, k < 4 → r k = writeDmc k d c) : DmcWritten d c r := by
  unfold DmcWritten
  rw [h 0 (by decide), h 1 (by decide), h 2 (by decide), h 3 (by decide)]
  refine ⟨⟨?rate, rfl⟩, ⟨?level, rfl⟩, ⟨toNat_sampleAddr d, rfl⟩, rfl⟩
  case rate => simp only [writeDmc, toNat_getField]; omega
  case level => simp only [writeDmc, toNat_getField]; omega

/-- R92: a write of $4000 + k. -/
theorem busWrite_channel (s : State) (d : Byte) {k : Nat} (hk : k < 20) :
    busWrite (BitVec.ofNat 16 (0x4000 + k)) d s = { s with apu := writeApuChannel k d s.apu } := by
  have haddr : (BitVec.ofNat 16 (0x4000 + k)).toNat = 0x4000 + k := Nat.mod_eq_of_lt (by omega)
  exact (WriteCase.apu (by omega) (by omega) k haddr.symm).eq

/-! R92: which channel a register belongs to, and its number there. -/

theorem writeApuChannel_pulse1 (d : Byte) (a : Apu) {k : Nat} (hk : k < 4) :
    writeApuChannel k d a = { a with pulse1 := writePulse k d (a.enable.getLsbD 0) a.pulse1 } := if_pos hk

theorem writeApuChannel_pulse2 (d : Byte) (a : Apu) {k : Nat} (hk : k < 4) :
    writeApuChannel (4 + k) d a = { a with pulse2 := writePulse k d (a.enable.getLsbD 1) a.pulse2 } := by
  unfold writeApuChannel
  rw [if_neg (by omega), if_pos (by omega), Nat.add_sub_cancel_left]
  rfl

theorem writeApuChannel_triangle (d : Byte) (a : Apu) {k : Nat} (hk : k < 4) :
    writeApuChannel (8 + k) d a = { a with triangle := writeTriangle k d (a.enable.getLsbD 2) a.triangle } := by
  unfold writeApuChannel
  rw [if_neg (by omega), if_neg (by omega), if_pos (by omega), Nat.add_sub_cancel_left]
  rfl

theorem writeApuChannel_noise (d : Byte) (a : Apu) {k : Nat} (hk : k < 4) :
    writeApuChannel (12 + k) d a = { a with noise := writeNoise k d (a.enable.getLsbD 3) a.noise } := by
  unfold writeApuChannel
  rw [if_neg (by omega), if_neg (by omega), if_neg (by omega), if_pos (by omega), Nat.add_sub_cancel_left]
  rfl

theorem writeApuChannel_dmc (d : Byte) (a : Apu) (k : Nat) :
    writeApuChannel (16 + k) d a = { a with dmc := writeDmc k d a.dmc } := by
  unfold writeApuChannel
  rw [if_neg (by omega), if_neg (by omega), if_neg (by omega), if_neg (by omega), Nat.add_sub_cancel_left]

/-! ## The DMC -/

/-- R549: the level moved by two within 0..127, or kept at its ends. -/
theorem toNat_dmcLevel (up : Bool) (level : BitVec 7) :
    (dmcLevel up level).toNat =
      if up then (if level.toNat ≤ 125 then level.toNat + 2 else level.toNat)
      else (if 2 ≤ level.toNat then level.toNat - 2 else level.toNat) := by
  have hl := level.isLt
  unfold dmcLevel
  split_ifs <;> bv_omega

/-- R557: what the reader's registers are after a byte: the sample starts again, or the address moves on and `dmc_irq` marks the end. -/
theorem dmcAdvance_eq (d : Dmc) (h : 0 < d.bytesRemaining) :
    dmcAdvance d =
      { d with
        currentAddr :=
          if d.bytesRemaining = 1 ∧ d.loop = true then d.sampleAddr
          else if d.currentAddr = 0xFFFF then 0x8000 else d.currentAddr + 1
        bytesRemaining := if d.bytesRemaining = 1 ∧ d.loop = true then d.sampleLen else d.bytesRemaining - 1
        irq := d.irq || (d.irqEnable && !d.loop && decide (d.bytesRemaining = 1)) } := by
  have hlast : d.bytesRemaining - 1 = 0 ↔ d.bytesRemaining = 1 := by omega
  unfold dmcAdvance
  simp only [hlast]
  split_ifs with hend hloop hirq
  all_goals simp_all

/-- R549: between two output clocks the timer counts down. -/
theorem dmcStep_between {s : State} (h : 0 < s.apu.dmc.timer) :
    dmcStep s = setDmc { s.apu.dmc with timer := s.apu.dmc.timer - 1 } s := if_pos h

/-- R549: an output clock within a byte. -/
theorem dmcStep_within {s : State} (htimer : s.apu.dmc.timer = 0) (hbits : 1 < s.apu.dmc.bitsRemaining) :
    dmcStep s = setDmc (dmcShift s.config.dmcRateTable s.apu.dmc) s := by
  unfold dmcStep
  rw [if_neg (by omega)]
  exact if_neg (show s.apu.dmc.bitsRemaining - 1 ≠ 0 by omega)

/-- R549: an output clock at a byte boundary. -/
theorem dmcStep_boundary {s : State} (htimer : s.apu.dmc.timer = 0) (hbits : s.apu.dmc.bitsRemaining ≤ 1) :
    dmcStep s = dmcReload (setDmc (dmcShift s.config.dmcRateTable s.apu.dmc) s) := by
  unfold dmcStep
  rw [if_neg (by omega)]
  exact if_pos (show s.apu.dmc.bitsRemaining - 1 = 0 by omega)


/-- R553, R557: a bus read does not see the DMC's registers but through $4015, which shows `dmc_irq` and whether bytes remain. -/
theorem busRead_setDmc (a : Word) {d : Dmc} {s : State} (hirq : d.irq = s.apu.dmc.irq)
    (hbytes : d.bytesRemaining = s.apu.dmc.bytesRemaining) :
    busRead a (setDmc d s) = ((busRead a s).1, setDmc d (busRead a s).2) := by
  have k := busRead_cases a s
  generalize busRead a s = q at k
  cases k
  case ram h => exact (ReadCase.ram h).eq
  case ppu h h' => exact (ReadCase.ppu h h').eq
  case zero h h' h'' => exact (ReadCase.zero h h' h'').eq
  case status h =>
    have hbyte : apuStatusByte (setDmc d s).apu = apuStatusByte s.apu := by
      simp only [apuStatusByte, setDmc_apu_dmc, hirq, hbytes]
      rfl
    rw [(ReadCase.status (s := setDmc d s) h).eq, hbyte]
    rfl
  case pad1 h => exact (ReadCase.pad1 h).eq
  case pad2 h => exact (ReadCase.pad2 h).eq
  case cart h h' => exact (ReadCase.cart h h').eq
  case prgRam h k hk => exact (ReadCase.prgRam h k hk).eq

/-- R557: the reader's fetch: the byte at the current address, the stall, the registers moved on. -/
theorem dmcFetch_setDmc {d : Dmc} {s : State} (hirq : d.irq = s.apu.dmc.irq) (hbytes : d.bytesRemaining = s.apu.dmc.bytesRemaining) :
    dmcFetch (setDmc d s) =
      ((busRead d.currentAddr s).1,
        setDmc (dmcAdvance d) { (busRead d.currentAddr s).2 with dmcStall := min 4 (s.dmcStall + s.config.dmcStall) }) := by
  obtain ⟨-, -, -, hstall, -, -, -, hconfig, -⟩ := busRead_effects d.currentAddr s
  unfold dmcFetch
  simp only [setDmc_apu_dmc, busRead_setDmc d.currentAddr hirq hbytes, setDmc_dmcStall, setDmc_config, hstall, hconfig]
  rfl

/-- R549: at a byte boundary with a byte left, that byte is fetched into the shift register. -/
theorem dmcReload_fetch {d : Dmc} {s : State} (hirq : d.irq = s.apu.dmc.irq) (hbytes : d.bytesRemaining = s.apu.dmc.bytesRemaining)
    (hleft : 0 < d.bytesRemaining) :
    dmcReload (setDmc d s) =
      setDmc { dmcAdvance { d with bitsRemaining := 8 } with shift := (busRead d.currentAddr s).1, silence := false }
        { (busRead d.currentAddr s).2 with dmcStall := min 4 (s.dmcStall + s.config.dmcStall) } := by
  have hfetch := dmcFetch_setDmc (d := { d with bitsRemaining := 8 }) (s := s) hirq hbytes
  calc dmcReload (setDmc d s)
      = setDmc { (dmcFetch (setDmc { d with bitsRemaining := 8 } s)).2.apu.dmc with
          shift := (dmcFetch (setDmc { d with bitsRemaining := 8 } s)).1, silence := false }
          (dmcFetch (setDmc { d with bitsRemaining := 8 } s)).2 := if_pos hleft
    _ = _ := by rw [hfetch]; rfl

/-- R549: at a byte boundary with no byte left the channel falls silent. -/
theorem dmcReload_silence {d : Dmc} (s : State) (hleft : d.bytesRemaining = 0) :
    dmcReload (setDmc d s) = setDmc { d with bitsRemaining := 8, silence := true } s :=
  if_neg (show ¬ 0 < d.bytesRemaining by omega)

/-- R549: an output clock at a byte boundary with no byte left. -/
theorem dmcStep_silence {s : State} (htimer : s.apu.dmc.timer = 0) (hbits : s.apu.dmc.bitsRemaining ≤ 1)
    (hleft : s.apu.dmc.bytesRemaining = 0) :
    dmcStep s = setDmc { dmcShift s.config.dmcRateTable s.apu.dmc with bitsRemaining := 8, silence := true } s :=
  (dmcStep_boundary htimer hbits).trans (dmcReload_silence s hleft)

/-- R549, R557: an output clock at a byte boundary with a byte left. -/
theorem dmcStep_fetch {s : State} (htimer : s.apu.dmc.timer = 0) (hbits : s.apu.dmc.bitsRemaining ≤ 1)
    (hleft : 0 < s.apu.dmc.bytesRemaining) :
    let b := busRead s.apu.dmc.currentAddr s
    dmcStep s =
      setDmc { dmcAdvance { dmcShift s.config.dmcRateTable s.apu.dmc with bitsRemaining := 8 } with shift := b.1, silence := false }
        { b.2 with dmcStall := min 4 (s.dmcStall + s.config.dmcStall) } :=
  (dmcStep_boundary htimer hbits).trans (dmcReload_fetch rfl rfl hleft)

/-- R549, R557: that clock is the fetch of the statement. -/
theorem dmcStep_fetched {s : State} (htimer : s.apu.dmc.timer = 0) (hbits : s.apu.dmc.bitsRemaining = 1)
    (hleft : 0 < s.apu.dmc.bytesRemaining) : DmcFetched s (dmcStep s) := by
  rw [dmcStep_fetch htimer hbits.le hleft, dmcAdvance_eq]
  exacts [⟨rfl, rfl, rfl, rfl, rfl, rfl, rfl, rfl⟩, hleft]

/-- R549: the timer and the level after an output clock, whatever comes at the byte boundary. -/
theorem dmcStep_clock {s : State} (htimer : s.apu.dmc.timer = 0) :
    let c := dmcShift s.config.dmcRateTable s.apu.dmc
    (dmcStep s).apu.dmc.timer = c.timer ∧ (dmcStep s).apu.dmc.level = c.level := by
  intro c
  by_cases hbits : 1 < s.apu.dmc.bitsRemaining
  · rw [dmcStep_within htimer hbits]
    exact ⟨rfl, rfl⟩
  have hboundary := Nat.not_lt.mp hbits
  rcases Nat.eq_zero_or_pos s.apu.dmc.bytesRemaining with hleft | hleft
  · rw [dmcStep_silence htimer hboundary hleft]
    exact ⟨rfl, rfl⟩
  · rw [dmcStep_fetch htimer hboundary hleft, dmcAdvance_eq]
    exacts [⟨rfl, rfl⟩, hleft]

/-- R549: the level an output clock leaves. -/
theorem toNat_dmcShift_level (table : List Nat) (d : Dmc) :
    (dmcShift table d).level.toNat =
      if d.silence then d.level.toNat
      else if d.shift.getLsbD 0 then (if d.level.toNat ≤ 125 then d.level.toNat + 2 else d.level.toNat)
      else (if 2 ≤ d.level.toNat then d.level.toNat - 2 else d.level.toNat) := by
  unfold dmcShift
  rw [apply_ite BitVec.toNat, toNat_dmcLevel]
  rfl

/-- Settles O60: each channel's write lemma gives the fields of its registers; an output clock ends in one of `dmcStep_within`,
`dmcStep_silence` and `dmcStep_fetch`. -/
theorem apuChannelWritesAndDmcReader : Obligations.ApuChannelWritesAndDmcReader := by
  unfold Obligations.ApuChannelWritesAndDmcReader
  refine ⟨fun s d => ?writes, fun s => ?clock⟩
  case writes =>
    intro r
    have hr : ∀ k, k < 20 → r k = { s with apu := writeApuChannel k d s.apu } := fun k hk => busWrite_channel s d hk
    refine ⟨writePulse_written fun k hk => ?pulse1, writePulse_written fun k hk => ?pulse2, writeTriangle_written fun k hk => ?triangle,
      writeNoise_written fun k hk => ?noise, writeDmc_written fun k hk => ?dmc, fun k hk => ?frame⟩
    case pulse1 => rw [hr k (by omega), writeApuChannel_pulse1 d _ hk]
    case pulse2 => rw [hr (4 + k) (by omega), writeApuChannel_pulse2 d _ hk]
    case triangle => rw [hr (8 + k) (by omega), writeApuChannel_triangle d _ hk]
    case noise => rw [hr (12 + k) (by omega), writeApuChannel_noise d _ hk]
    case dmc => rw [hr (16 + k) (by omega), writeApuChannel_dmc]
    case frame =>
      rw [hr k hk]
      unfold writeApuChannel
      split_ifs <;> rfl
  case clock =>
    intro d level u
    have hbetween : 0 < d.timer → u = _ := dmcStep_between
    refine ⟨hbetween, fun htimer => ?_⟩
    obtain ⟨hclock, hlevel⟩ := dmcStep_clock htimer
    refine ⟨hclock, ?level, fun hbits => ?within, fun hbits hleft => ?silence, fun hbits hleft => dmcStep_fetched htimer hbits hleft⟩
    case level => exact (congrArg BitVec.toNat hlevel).trans (toNat_dmcShift_level _ _)
    case within =>
      have hu : u = _ := dmcStep_within htimer hbits
      rw [hu]
      rfl
    case silence =>
      have hu : u = _ := dmcStep_silence htimer hbits.le hleft
      rw [hu]
      rfl

end Sys2Proof.Machine
end

section
/-! PROOFS. The family 61_platform_devices.md, the mappers: their counters, registers and translations (R423, R596 to R599). -/

namespace Sys2Proof.Machine

/-! ## Mappers -/

/-- R599: a condition that pends an IRQ sets the pending bit and nothing else. -/
theorem pendIf_eq (m : MapperRegs) (p : Prop) [Decidable p] :
    (if p then { m with irqPending := true } else m) = { m with irqPending := m.irqPending || decide p } := by
  split_ifs with h <;> simp [h]

/-- R597: an MMC3 counter's clock. -/
theorem mmc3ScanlineTick_eq (m : MapperRegs) :
    let n : Int := if m.irqCounter = 0 ∨ m.irqReload = true then m.irqLatch else m.irqCounter - 1
    mmc3ScanlineTick m =
      { m with irqCounter := n, irqReload := false, irqPending := m.irqPending || (m.irqEnabled && decide (n = 0)) } := by
  unfold mmc3ScanlineTick
  simp only [pendIf_eq, Bool.decide_and, Bool.decide_eq_true, Bool.and_comm]
  by_cases hreload : m.irqCounter = 0 ∨ m.irqReload = true
  · simp only [if_pos hreload]
  · have hflag : m.irqReload = false := Bool.eq_false_of_not_eq_true (not_or.mp hreload).2
    simp only [if_neg hreload]
    rw [hflag]

/-- R598: mapper 16's counter. -/
theorem bandaiCpuTick_eq (m : MapperRegs) :
    bandaiCpuTick m =
      { m with irqCounter := m.irqCounter - 1, irqPending := m.irqPending || decide (m.irqCounter - 1 < 0) } :=
  pendIf_eq _ _

/-- R423, R597: MMC3 has no CPU-cycle hook. -/
theorem mapperCpuTick_mmc3 {c : Cartridge} (hv : c.variant = .mmc3) : mapperCpuTick c = c := by
  have hregs : cpuTickRegs c.variant c.mapper = c.mapper := congrArg (cpuTickRegs · c.mapper) hv
  unfold mapperCpuTick
  rw [hregs]

/-- R423, R598: mapper 16 has no scanline hook. -/
theorem mapperScanlineTick_bandai {c : Cartridge} (hv : c.variant = .bandaiFcg) : mapperScanlineTick c = c := by
  have hregs : scanlineTickRegs c.variant c.mapper = c.mapper := congrArg (scanlineTickRegs · c.mapper) hv
  unfold mapperScanlineTick
  rw [hregs]

/-- R590: `cpuMapWrite_mapper` for a variant known by name. -/
theorem cpuMapWrite_mapper_of {c : Cartridge} {v : MapperVariant} (hv : c.variant = v) (hnrom : v ≠ .nrom) (huxrom : v ≠ .uxrom)
    (a : Word) (d : Byte) : (cpuMapWrite c a d).mapper = writtenRegs v c.mapper (freeMapWrite c a d).mapper a d := by
  subst hv
  exact cpuMapWrite_mapper c a d hnrom huxrom

/-- R590: `cpuMapWrite_mirroring` for a variant known by name. -/
theorem cpuMapWrite_mirroring_of {c : Cartridge} {v : MapperVariant} (hv : c.variant = v) (hnrom : v ≠ .nrom) (huxrom : v ≠ .uxrom)
    (a : Word) (d : Byte) :
    (cpuMapWrite c a d).mirroring = (writtenMirroring v c.mapper c.mirroring a d).getD (freeMapWrite c a d).mirroring := by
  subst hv
  exact cpuMapWrite_mirroring c a d hnrom huxrom

/-- R596: UxROM's PRG select. -/
theorem cpuMapWrite_uxrom {c : Cartridge} {a : Word} (d : Byte) (hv : c.variant = .uxrom) (ha : 0x8000 ≤ a.toNat) :
    cpuMapWrite c a d = { c with mapper := { c.mapper with prg := d.toNat % 16 } } := by
  unfold cpuMapWrite
  rw [hv]
  dsimp only
  rw [if_pos ha, ← hv]

/-- R596: UxROM's banks: the one selected at $8000, the last at $C000. -/
theorem cpuMapRead_uxrom {c : Cartridge} {a : Word} (hv : c.variant = .uxrom) (ha : 0x8000 ≤ a.toNat) :
    cpuMapRead c a = some (if a.toNat < 0xC000 then c.mapper.prg * 16384 + (a.toNat - 0x8000)
      else c.prgSize - 16384 + (a.toNat - 0xC000)) := by
  have hlt := a.isLt
  unfold cpuMapRead uxromMapRead fixedLastBank bankOffset
  rw [hv]
  dsimp only
  rw [if_neg (Nat.not_lt.mpr ha)]
  refine congrArg some ?_
  split_ifs <;> omega

/-- R596: AxROM's 32 KB bank. -/
theorem cpuMapRead_axrom {c : Cartridge} {a : Word} (hv : c.variant = .axrom) (ha : 0x8000 ≤ a.toNat) :
    cpuMapRead c a = some (c.mapper.prg * 32768 + (a.toNat - 0x8000)) := by
  have hlt := a.isLt
  have hmod : a.toNat % 0x8000 = a.toNat - 0x8000 := by omega
  have hread : cpuMapRead c a = prgMapRead c a := by
    unfold cpuMapRead
    rw [hv]
    exact if_neg (Nat.not_lt.mpr ha)
  rw [hread, ← hmod]
  unfold prgMapRead
  rw [hv]
  rfl

/-- R598: the `chr_low` at the index a write to mapper 253 reaches. -/
theorem waixingWrite_banks_same (old free : MapperRegs) (a : Word) (d : Byte) :
    (waixingWrite old free a d).banks.getD (waixingIndex a) 0 =
      if Config.waixingChrAt a then Config.waixingChrLow (old.banks.getD (waixingIndex a) 0) a d
      else old.banks.getD (waixingIndex a) 0 := by
  unfold waixingWrite
  cases Config.waixingChrAt a
  case false => rfl
  case true => exact (loadBank_getD _ _ _ (waixingIndex_lt a)).trans (if_pos rfl)

/-- R598: the `chr_high` at that index. -/
theorem waixingWrite_chrHigh_same (old free : MapperRegs) (a : Word) (d : Byte) :
    (waixingWrite old free a d).chrHigh.getD (waixingIndex a) 0 =
      if Config.waixingChrAt a && Config.waixingHighAt a then d.toNat / 16 else old.chrHigh.getD (waixingIndex a) 0 := by
  unfold waixingWrite
  cases Config.waixingChrAt a
  case false => rfl
  case true =>
    cases Config.waixingHighAt a
    case false => rfl
    case true => exact (loadBank_getD _ _ _ (waixingIndex_lt a)).trans (if_pos rfl)

/-- R598: every other register of mapper 253 keeps its `chr_low` and `chr_high`. -/
theorem waixingWrite_other (old free : MapperRegs) (a : Word) (d : Byte) {k : Nat} (hk : k < 8) (hother : k ≠ waixingIndex a) :
    (waixingWrite old free a d).banks.getD k 0 = old.banks.getD k 0
      ∧ (waixingWrite old free a d).chrHigh.getD k 0 = old.chrHigh.getD k 0 := by
  have hload : ∀ x banks, (loadBank (waixingIndex a) x banks).getD k 0 = banks.getD k 0 := fun x banks =>
    (loadBank_getD _ x banks hk).trans (if_neg hother)
  unfold waixingWrite
  cases Config.waixingChrAt a
  case false => exact ⟨rfl, rfl⟩
  case true =>
    refine ⟨hload _ _, ?_⟩
    cases Config.waixingHighAt a
    case false => rfl
    case true => exact hload _ _

/-- R598: the latch of mapper 253 goes by the `chr_low` a write leaves. -/
theorem waixingWrite_vlock (old free : MapperRegs) (a : Word) (d : Byte) :
    let low := (waixingWrite old free a d).banks.getD (waixingIndex a) 0
    (waixingWrite old free a d).vlock =
      if Config.waixingChrAt a = true ∧ low = 0xC8 then false
      else if Config.waixingChrAt a = true ∧ low = 0x88 then true else old.vlock := by
  intro low
  have hlow : low = _ := waixingWrite_banks_same old free a d
  rw [hlow]
  unfold waixingWrite
  cases Config.waixingChrAt a
  case false => simp
  case true => simp [waixingLock]

/-- R598: where mapper 253 maps a CHR read. -/
theorem ppuMapRead_waixing {c : Cartridge} (hv : c.variant = .waixingVrc4) (p : PpuAddr) :
    ppuMapRead c p = some (waixingChrOffset c p) := by
  unfold ppuMapRead
  rw [hv]

/-- R598: an unlocked region of `chr_low` 4 or 5 shows a byte of the appended CHR RAM. -/
theorem waixingChrOffset_appended {c : Cartridge} {p : PpuAddr} (hunlocked : c.mapper.vlock = false)
    (hlow : c.mapper.banks.getD (p.toNat / 0x400) 0 = 4 ∨ c.mapper.banks.getD (p.toNat / 0x400) 0 = 5) :
    ∃ k, k < 8192 ∧ waixingChrOffset c p = c.chrSize - 8192 + k := by
  have hshows : showsAppendedRam c.mapper (chrRegion p) = true := by
    unfold showsAppendedRam chrRegion
    rw [hunlocked]
    rcases hlow with h | h <;> rw [h] <;> rfl
  exact ⟨_, Nat.mod_lt _ (by decide), if_pos hshows⟩

/-- R598: every region of a locked latch shows its own 1 KB bank. -/
theorem waixingChrOffset_locked {c : Cartridge} {p : PpuAddr} (hlocked : c.mapper.vlock = true) :
    waixingChrOffset c p = Config.waixingBank (c.mapper.banks.getD (p.toNat / 0x400) 0) (c.mapper.chrHigh.getD (p.toNat / 0x400) 0) * 1024
      + p.toNat % 1024 := by
  have hbanked : ¬ showsAppendedRam c.mapper (chrRegion p) = true := by simp [showsAppendedRam, hlocked]
  exact if_neg hbanked

/-- Settles O58: per variant, the lemma about its hook, its registers or its translation. -/
theorem mapperCountersAndMirroring : Obligations.MapperCountersAndMirroring := by
  unfold Obligations.MapperCountersAndMirroring
  intro c a d w
  refine ⟨fun hv => ?mmc3, fun hv => ?bandai, fun hpending => hook_keeps_pending c.variant c.mapper hpending, fun hv k hk => ?banks,
    fun hv => ?multi52, fun hv ha => ⟨?uxrom, cpuMapRead_uxrom hv ha⟩, fun hv ha => ?cnromBelow, fun hv ha => ?cnromSelect,
    fun hv => ⟨cpuMapRead_axrom hv, ?axrom⟩, fun hv => ?colorDreams, fun hv ha => ?ninaOutside, fun hv ha ha' => ?ninaSelect,
    fun hv => ?waixing⟩
  case mmc3 =>
    intro m n
    have hn : n = _ := (congrArg (scanlineTickRegs · c.mapper) hv).trans (mmc3ScanlineTick_eq c.mapper)
    rw [hn]
    refine ⟨rfl, ?_, rfl, mapperCpuTick_mmc3 hv⟩
    cases m.irqReload <;> simp
  case bandai =>
    have hn : (mapperCpuTick c).mapper = _ := (congrArg (cpuTickRegs · c.mapper) hv).trans (bandaiCpuTick_eq c.mapper)
    rw [hn]
    exact ⟨rfl, rfl, mapperScanlineTick_bandai hv⟩
  case banks =>
    have hw : w.mapper.banks = writeBank (Config.mapperBankWrite c.variant c.mapper a d) c.mapper.banks := by
      rcases hv with hv | hv
      · rw [cpuMapWrite_mapper_of hv (by decide) (by decide), hv]; rfl
      · rw [cpuMapWrite_mapper_of hv (by decide) (by decide), hv]; rfl
    rw [hw]
    exact writeBank_getD _ _ hk
  case multi52 => exact cpuMapWrite_mirroring_of hv (by decide) (by decide) a d
  case uxrom => exact congrArg (·.mapper.prg) (cpuMapWrite_uxrom d hv ha)
  case cnromBelow =>
    rw [cpuMapWrite_mapper_of hv (by decide) (by decide)]
    exact if_neg (Nat.not_le.mpr ha)
  case cnromSelect =>
    rw [cpuMapWrite_mapper_of hv (by decide) (by decide)]
    refine (if_pos ha).trans ?_
    simp [dataBits]
  case axrom =>
    rw [cpuMapWrite_mirroring_of hv (by decide) (by decide)]
    simp only [writtenMirroring, Option.getD_some]
    split_ifs
    · exact .inr (.inr rfl)
    · exact .inr (.inl rfl)
    · exact .inl rfl
  case colorDreams =>
    rw [cpuMapWrite_mapper_of hv (by decide) (by decide)]
    unfold writtenRegs selectBanks
    split_ifs <;> exact ⟨rfl, rfl⟩
  case ninaOutside =>
    have hout : decide (0x4100 ≤ a.toNat ∧ a.toNat ≤ 0x5FFF) = false := decide_eq_false (by omega)
    rw [cpuMapWrite_mapper_of hv (by decide) (by decide), writtenRegs, hout]
    exact ⟨rfl, rfl⟩
  case ninaSelect =>
    have hin : decide (0x4100 ≤ a.toNat ∧ a.toNat ≤ 0x5FFF) = true := decide_eq_true (by omega)
    rw [cpuMapWrite_mapper_of hv (by decide) (by decide), writtenRegs, hin]
    exact ⟨rfl, rfl⟩
  case waixing =>
    intro x i low reached
    have hw : w.mapper = waixingWrite c.mapper (freeMapWrite c a d).mapper a d := cpuMapWrite_mapper_of hv (by decide) (by decide) a d
    rw [hw]
    refine ⟨?low, ?vlock, ?high, fun k hk hother => ?other, fun p _ => ⟨fun hregion => ?appended, fun hlocked => ?locked⟩⟩
    case low => exact (congrArg (·.banks.getD i 0) hw).trans (waixingWrite_banks_same _ _ a d)
    case vlock =>
      have hlow : low = _ := congrArg (·.banks.getD i 0) hw
      rw [hlow]
      exact waixingWrite_vlock _ _ a d
    case high => exact waixingWrite_chrHigh_same _ _ a d
    case other => exact waixingWrite_other _ _ a d hk hother
    case appended =>
      obtain ⟨hunlocked, hlow⟩ := hregion
      rw [ppuMapRead_waixing hv]
      obtain ⟨k, hk, hoff⟩ := waixingChrOffset_appended hunlocked hlow
      exact ⟨k, hk, congrArg some hoff⟩
    case locked => rw [ppuMapRead_waixing hv, waixingChrOffset_locked hlocked]

end Sys2Proof.Machine
end

section
/-! PROOFS. The family 61_platform_devices.md, the PPU's address space and its ports $2003, $2004 and $2007 (R98 to R100, R507 to R516). -/

namespace Sys2Proof.Machine

/-! ## PPU addresses -/

/-- R98: the address an access to $2007 reaches. -/
theorem vAddr_eq (p : Ppu) : vAddr p = BitVec.ofNat 14 (p.v.toNat % 0x4000) := by
  apply BitVec.eq_of_toNat_eq
  rw [vAddr, toNat_getField, BitVec.toNat_ofNat]
  omega

/-- R99: the nametable bank of an address is its nametable, which under SingleScreenHigh is the second bank. -/
theorem nametableBank_eq (m : Mirroring) (a : PpuAddr) :
    nametableBank m (getField a 10 2) = nametableOf m a.toNat + (if m = .singleScreenHigh then 1 else 0) := by
  have hq : (getField a 10 2).toNat = a.toNat / 0x400 % 4 := toNat_getField a 10 2
  have hbit : ∀ i, bitAt (getField a 10 2) i = decide (a.toNat / 0x400 % 4 / 2 ^ i % 2 = 1) := fun i => by
    rw [bitAt, BitVec.getLsbD, hq, Nat.testBit_eq_decide_div_mod_eq]
  cases m
  case horizontal =>
    simp only [nametableBank, hbit, nametableOf, decide_eq_true_eq, reduceCtorEq, if_false]
    split_ifs <;> omega
  case vertical =>
    simp only [nametableBank, hbit, nametableOf, decide_eq_true_eq, reduceCtorEq, if_false]
    split_ifs <;> omega
  case singleScreenLow | singleScreenHigh => rfl
  case fourScreen => exact hq

/-- R99: two nametable addresses share their RAM byte when they have one offset and one nametable. -/
theorem ntIndex_eq_iff (m : Mirroring) (a b : PpuAddr) :
    ntIndex m a = ntIndex m b ↔ a.toNat % 0x400 = b.toNat % 0x400 ∧ nametableOf m a.toNat = nametableOf m b.toNat := by
  unfold ntIndex
  rw [nametableBank_eq, nametableBank_eq, toNat_getField, toNat_getField]
  omega

/-- R100: two palette addresses share their byte when they are equal modulo 32, or backdrop entries equal modulo 16. -/
theorem palIndex_eq_iff (a b : PpuAddr) :
    palIndex a = palIndex b ↔ a.toNat % 32 = b.toNat % 32 ∨ (a.toNat % 4 = 0 ∧ a.toNat % 16 = b.toNat % 16) := by
  unfold palIndex
  simp only [toNat_getField, Nat.pow_zero, Nat.div_one]
  split_ifs <;> omega

/-- R99, R100, R516: two addresses name one PPU byte when they have one index in the nametable RAM, or in the palette. -/
theorem samePpuByte_iff (m : Mirroring) (a b : PpuAddr) :
    SamePpuByte m a b ↔
      (0x2000 ≤ a.toNat ∧ a.toNat < 0x3F00 ∧ 0x2000 ≤ b.toNat ∧ b.toNat < 0x3F00 ∧ ntIndex m a = ntIndex m b)
        ∨ (0x3F00 ≤ a.toNat ∧ 0x3F00 ≤ b.toNat ∧ palIndex a = palIndex b) := by
  rw [ntIndex_eq_iff, palIndex_eq_iff]
  rfl

/-- R516: what the PPU reads at a nametable address. -/
theorem ppuRead_nametable (c : Cartridge) (p : Ppu) {a : PpuAddr} (ha : 0x2000 ≤ a.toNat) (ha' : a.toNat < 0x3F00) :
    ppuRead c p a = p.nametable.read (ntIndex c.mirroring a) := by
  unfold ppuRead
  rw [if_neg (Nat.not_lt.mpr ha), if_pos ha']

/-- R516: what the PPU reads at a palette address. -/
theorem ppuRead_palette (c : Cartridge) (p : Ppu) {a : PpuAddr} (ha : 0x3F00 ≤ a.toNat) :
    ppuRead c p a = p.palette.read (palIndex a) := by
  unfold ppuRead
  rw [if_neg (by omega), if_neg (Nat.not_lt.mpr ha)]

/-- R516: below $2000 the PPU reads the cartridge alone. -/
theorem ppuRead_chr (c : Cartridge) (p q : Ppu) {a : PpuAddr} (ha : a.toNat < 0x2000) : ppuRead c q a = ppuRead c p a := by
  unfold ppuRead
  rw [if_pos ha, if_pos ha]

/-- R99, R100: addresses of one byte read alike. -/
theorem SamePpuByte.ppuRead_eq {c : Cartridge} {a b : PpuAddr} (h : SamePpuByte c.mirroring a b) (p : Ppu) :
    ppuRead c p a = ppuRead c p b := by
  rcases (samePpuByte_iff _ _ _).mp h with ⟨ha, ha', hb, hb', hindex⟩ | ⟨ha, hb, hindex⟩
  · rw [ppuRead_nametable c p ha ha', ppuRead_nametable c p hb hb', hindex]
  · rw [ppuRead_palette c p ha, ppuRead_palette c p hb, hindex]

/-- R511, R516: a write of the PPU's own memory at `v` is read at the addresses of its byte. -/
theorem ppuRead_vramWrite_same {c : Cartridge} {p : Ppu} {v a : PpuAddr} (d : Byte) (hnametable : p.nametable.wf)
    (hpalette : p.palette.wf) (h : SamePpuByte c.mirroring v a) : ppuRead c (vramWrite c.mirroring v d p) a = d := by
  rw [← h.ppuRead_eq]
  unfold vramWrite
  rcases (samePpuByte_iff _ _ _).mp h with ⟨hv, hv', -⟩ | ⟨hv, -⟩
  · rw [if_pos hv', ppuRead_nametable c _ hv hv']
    exact Memory.read_write_same _ _ _ hnametable
  · rw [if_neg (Nat.not_lt.mpr hv), ppuRead_palette c _ hv]
    exact Memory.read_write_same _ _ _ hpalette

/-- R511, R516: it is read at no other address. -/
theorem ppuRead_vramWrite_other {c : Cartridge} {v a : PpuAddr} (p : Ppu) (d : Byte) (hv : 0x2000 ≤ v.toNat)
    (h : ¬ SamePpuByte c.mirroring v a) : ppuRead c (vramWrite c.mirroring v d p) a = ppuRead c p a := by
  rw [samePpuByte_iff, not_or] at h
  obtain ⟨hnametable, hpalette⟩ := h
  rcases Nat.lt_or_ge a.toNat 0x2000 with ha | ha
  · exact ppuRead_chr c p _ ha
  unfold vramWrite
  rcases Nat.lt_or_ge a.toNat 0x3F00 with ha' | ha'
  · rw [ppuRead_nametable c _ ha ha', ppuRead_nametable c _ ha ha']
    split_ifs with hv'
    · exact Memory.read_write_other _ _ _ _ fun hindex => hnametable ⟨hv, hv', ha, ha', hindex.symm⟩
    · rfl
  · rw [ppuRead_palette c _ ha', ppuRead_palette c _ ha']
    split_ifs with hv'
    · rfl
    · exact Memory.read_write_other _ _ _ _ fun hindex => hpalette ⟨Nat.not_lt.mp hv', ha', hindex.symm⟩

/-- R516: a write to CHR changes nothing that is read from $2000 on. -/
theorem ppuRead_chrWrite_above (c : Cartridge) (p : Ppu) (v : PpuAddr) (d : Byte) {a : PpuAddr} (ha : 0x2000 ≤ a.toNat) :
    ppuRead (chrWrite c v d) p a = ppuRead c p a := by
  have hmirroring : (chrWrite c v d).mirroring = c.mirroring := by
    unfold chrWrite
    split
    · split_ifs <;> rfl
    · rfl
  unfold ppuRead
  rw [if_neg (Nat.not_lt.mpr ha), if_neg (Nat.not_lt.mpr ha), hmirroring]

/-- R592: NROM reads CHR at the address itself. -/
theorem ppuRead_nrom {c : Cartridge} (hvariant : c.variant = .nrom) (p : Ppu) {a : PpuAddr} (ha : a.toNat < 0x2000) :
    ppuRead c p a = c.chr.read (a.toNat % c.chrSize) := by
  unfold ppuRead ppuMapRead
  rw [if_pos ha, hvariant]

/-- R592, R594: NROM with 8 KB of CHR writes CHR RAM at the address itself, and no CHR ROM. -/
theorem chrWrite_nrom {c : Cartridge} (hvariant : c.variant = .nrom) (hsize : c.chrSize = 0x2000) {v : PpuAddr} (d : Byte)
    (hv : v.toNat < 0x2000) :
    chrWrite c v d = if chrWritable c v.toNat then { c with chr := c.chr.write v.toNat d } else c := by
  have hmod : v.toNat % c.chrSize = v.toNat := by rw [hsize, Nat.mod_eq_of_lt hv]
  have hmap : ppuMapWrite c v = if chrWritable c v.toNat then some v.toNat else none := by
    unfold ppuMapWrite
    rw [hvariant]
  unfold chrWrite
  rw [hmap]
  cases hram : chrWritable c v.toNat
  case false => rfl
  case true => simp [hmod, hram]

/-- R516, R592: on NROM with 8 KB of CHR a write changes no CHR byte but that of its own address. -/
theorem ppuRead_chrWrite_nrom {c : Cartridge} (hvariant : c.variant = .nrom) (hsize : c.chrSize = 0x2000) (p : Ppu) {v a : PpuAddr}
    (d : Byte) (hv : v.toNat < 0x2000) (ha : a.toNat < 0x2000) (hne : a ≠ v) :
    ppuRead (chrWrite c v d) p a = ppuRead c p a := by
  rw [chrWrite_nrom hvariant hsize d hv]
  split_ifs
  · have hindex : a.toNat % c.chrSize ≠ v.toNat := by
      rw [hsize, Nat.mod_eq_of_lt ha]
      exact fun h => hne (BitVec.eq_of_toNat_eq h)
    have hafter := ppuRead_nrom (c := { c with chr := c.chr.write v.toNat d }) hvariant p ha
    rw [hafter, ppuRead_nrom hvariant p ha]
    exact Memory.read_write_other _ _ _ _ hindex
  · rfl

/-- R516: no PPU read depends on `v` itself. -/
theorem ppuRead_setV (c : Cartridge) (p : Ppu) (v : BitVec 15) (a : PpuAddr) : ppuRead c { p with v := v } a = ppuRead c p a := rfl

/-- R511: a write to $2007 with `v` in the PPU's own memory. -/
theorem busWrite_data_vram (s : State) (d : Byte) (hv : 0x2000 ≤ (vAddr s.ppu).toNat) :
    busWrite 0x2007 d s = { s with ppu := { vramWrite s.cart.mirroring (vAddr s.ppu) d s.ppu with v := nextV s.ppu } } := by
  have hwrite : ppuRegWrite 7 d s.cart s.ppu = ({ vramWrite s.cart.mirroring (vAddr s.ppu) d s.ppu with v := nextV s.ppu }, s.cart) := by
    show writeData d s.cart s.ppu = _
    unfold writeData ppuWrite
    rw [if_neg (Nat.not_lt.mpr hv)]
  refine (WriteCase.ppu (by decide) (by decide)).eq.trans ?_
  rw [show (0x2007 : Word).toNat % 8 = 7 from rfl, hwrite]

/-- R511: a write to $2007 with `v` in the cartridge's CHR. -/
theorem busWrite_data_chr (s : State) (d : Byte) (hv : (vAddr s.ppu).toNat < 0x2000) :
    busWrite 0x2007 d s = { s with ppu := { s.ppu with v := nextV s.ppu }, cart := chrWrite s.cart (vAddr s.ppu) d } := by
  have hwrite : ppuRegWrite 7 d s.cart s.ppu = ({ s.ppu with v := nextV s.ppu }, chrWrite s.cart (vAddr s.ppu) d) := by
    show writeData d s.cart s.ppu = _
    unfold writeData ppuWrite
    rw [if_pos hv]
  refine (WriteCase.ppu (by decide) (by decide)).eq.trans ?_
  rw [show (0x2007 : Word).toNat % 8 = 7 from rfl, hwrite]

/-! R507, R508: the OAM ports. -/

theorem busWrite_oamAddr (s : State) (d : Byte) : busWrite 0x2003 d s = { s with ppu := writeOamAddr d s.ppu } :=
  (WriteCase.ppu (by decide) (by decide)).eq

theorem busWrite_oamData (s : State) (d : Byte) : busWrite 0x2004 d s = { s with ppu := writeOamData d s.ppu } :=
  (WriteCase.ppu (by decide) (by decide)).eq

theorem readsAs_oamData (s : State) : readsAs s 0x2004 = s.ppu.oam.read s.ppu.oamAddr.toNat :=
  congrArg Prod.fst (ReadCase.ppu (by decide) (by decide)).eq

/-- Settles O55: an address names a byte by its index in the nametable RAM or the palette (`samePpuByte_iff`), at which the port's write
is read back. -/
theorem nametablePaletteAndOamAddressing : Obligations.NametablePaletteAndOamAddressing := by
  unfold Obligations.NametablePaletteAndOamAddressing
  intro s d hmem v t
  obtain ⟨-, -, ⟨⟨hnametable, -⟩, ⟨hpalette, -⟩, ⟨hoam, -⟩, -⟩, -⟩ := hmem
  have hv : vAddr s.ppu = v := vAddr_eq s.ppu
  refine ⟨fun a b hab => hab.ppuRead_eq s.ppu, fun habove a => ?vram, fun hbelow a ha => ?chr, readsAs_oamData s, ?stored, ?moved, ?set⟩
  case vram =>
    have ht : t = _ := busWrite_data_vram s d (hv ▸ habove)
    rw [ht, ppuRead_setV, hv]
    exact ⟨ppuRead_vramWrite_same d hnametable hpalette, ppuRead_vramWrite_other s.ppu d habove⟩
  case chr =>
    have ht : t = _ := busWrite_data_chr s d (hv ▸ hbelow)
    rw [ht, ppuRead_setV, hv]
    by_cases habove : 0x2000 ≤ a.toNat
    · exact ppuRead_chrWrite_above s.cart s.ppu v d habove
    · obtain ⟨hvariant, hsize, hne⟩ := ha.resolve_left habove
      exact ppuRead_chrWrite_nrom hvariant hsize s.ppu d hbelow (Nat.not_le.mp habove) hne
  case stored =>
    rw [busWrite_oamData]
    exact Memory.read_write_same _ _ _ hoam
  case moved => rw [busWrite_oamData]; rfl
  case set => rw [busWrite_oamAddr]; rfl

end Sys2Proof.Machine
end

section
/-! PROOFS. The family 61_platform_devices.md, the iNES loader (R600 to R604) and the reset it ends in (R700, R712). -/

namespace Sys2Proof.Machine

/-! ## Files -/

/-- The cells of bytes placed from index `n` on, without the $00 ones: what is read at `k`. -/
theorem Memory.read_zipIdx (bytes : List Byte) (n k : Nat) :
    Memory.read (((bytes.zipIdx n).map fun c => (c.2, c.1)).filter fun c => c.2 != 0) k =
      if n ≤ k then bytes.getD (k - n) 0 else 0 := by
  induction bytes generalizing n with
  | nil => simp
  | cons b bytes ih =>
    rw [List.zipIdx_cons, List.map_cons]
    have htail : n ≠ k →
        (if n + 1 ≤ k then bytes.getD (k - (n + 1)) 0 else 0) = if n ≤ k then (b :: bytes).getD (k - n) 0 else 0 := by
      intro hne
      by_cases hle : n ≤ k
      · have hlt : n + 1 ≤ k := Nat.lt_of_le_of_ne hle hne
        rw [if_pos hle, if_pos hlt, show k - n = k - (n + 1) + 1 by omega, List.getD_cons_succ]
      · rw [if_neg hle, if_neg (by omega)]
    by_cases hzero : b = 0
    · rw [List.filter_cons_of_neg (by simp [hzero]), ih]
      by_cases hk : n = k
      · simp [hk, hzero]
      · exact htail hk
    · rw [List.filter_cons_of_pos (by simpa using hzero), Memory.read_cons, ih]
      by_cases hk : n = k
      · simp [hk]
      · rw [if_neg hk, htail hk]

/-- A memory made of bytes holds each of them at its index, and $00 after them. -/
theorem Memory.read_ofBytes (bytes : List Byte) (k : Nat) : (Memory.ofBytes bytes).read k = bytes.getD k 0 := by
  unfold Memory.ofBytes
  rw [Memory.read_zipIdx, if_pos (Nat.zero_le k), Nat.sub_zero]

/-- The bytes a loader takes from a file: those in the range, and $00 after it. -/
theorem Memory.read_ofBytes_slice (bytes : List Byte) (offset size k : Nat) :
    (Memory.ofBytes ((bytes.drop offset).take size)).read k = if k < size then bytes.getD (offset + k) 0 else 0 := by
  rw [Memory.read_ofBytes, List.getD_eq_getElem?_getD, List.getElem?_take, List.getD_eq_getElem?_getD]
  split_ifs
  · rw [List.getElem?_drop]
  · rfl

/-- R600: the mapper number's low nibble is in byte 6, the high one in byte 7. -/
theorem toNat_mapperNumber (b6 b7 : Byte) : ((b6 >>> 4) ||| (b7 &&& 0xF0)).toNat = b6.toNat / 16 + b7.toNat / 16 * 16 := by
  have hmask : b7 &&& (0xF0 : Byte) = (b7 >>> 4) <<< 4 := by
    ext i hi
    interval_cases i <;> simp
  have h6 := b6.isLt
  have h7 := b7.isLt
  have hhigh : (b7 &&& 0xF0).toNat = (b7.toNat / 16) <<< 4 := by
    rw [hmask, BitVec.toNat_shiftLeft, BitVec.toNat_ushiftRight, Nat.shiftRight_eq_div_pow, Nat.shiftLeft_eq]
    omega
  have hlow : (b6 >>> 4).toNat = b6.toNat / 16 := by rw [BitVec.toNat_ushiftRight, Nat.shiftRight_eq_div_pow]
  rw [BitVec.toNat_or, hhigh, hlow, Nat.or_comm, ← Nat.shiftLeft_add_eq_or_of_lt (by omega), Nat.shiftLeft_eq, Nat.add_comm]

/-- R600, R604: the header the loader parses. -/
theorem parseHeader_eq (b4 b5 b6 b7 : Byte) :
    parseHeader b4 b5 b6 b7 =
      { prgBanks := b4, chrBanks := b5, mapper := BitVec.ofNat 8 (b6.toNat / 16 + b7.toNat / 16 * 16)
        mirroring := if b6.getLsbD 3 then Mirroring.fourScreen else if b6.getLsbD 0 then .vertical else .horizontal
        battery := b6.getLsbD 1, trainer := b6.getLsbD 2, nes2 := decide (b7.toNat / 4 % 4 = 2) } := by
  have hnes2 : (getField b7 2 2 == 2) = decide (b7.toNat / 4 % 4 = 2) := by
    rw [Bool.eq_iff_iff, beq_iff_eq, decide_eq_true_iff, ← BitVec.toNat_inj, toNat_getField]
    rfl
  unfold parseHeader
  rw [hnes2, ← toNat_mapperNumber, BitVec.ofNat_toNat, BitVec.setWidth_eq]
  rfl

/-- R700: `reset()`. -/
theorem systemReset_eq (s : State) :
    systemReset s =
      { s with
        cpu := { a := s.config.resetA, x := s.config.resetX, y := s.config.resetY, sp := 0xFD
                 pc := mkWord (cartRead (mapperReset s.cart) 0xFFFD) (cartRead (mapperReset s.cart) 0xFFFC), p := 0x24
                 cyclesRemaining := 8, totalCycles := s.config.resetTotalCycles, brkUnmasked := false }
        ram := [], cart := mapperReset s.cart, ppu := Ppu.reset, apu := Apu.reset s.apu.audio.sampleRate
        pads := { s.pads with shift1 := 0, shift2 := 0 }, dma := Dma.reset, dmcStall := 0, masterCount := 0, cpuTickCount := 0 } := by
  have hcart : ∀ (u : State) (a : Word), 0x8000 ≤ a.toNat → readsAs u a = cartRead u.cart a := fun u a ha =>
    congrArg Prod.fst (ReadCase.cart (by omega) (by unfold InPrgRam; omega)).eq
  unfold systemReset
  dsimp only
  rw [readWord_quiet _ _ (quiet_of_ge (by decide)) (quiet_of_ge (by decide)), hcart _ _ (by decide), hcart _ _ (by decide)]
  rfl

/-- R600: a file without the magic. -/
theorem parseRom_magic {file : List Byte} (h : file.take 4 ≠ [0x4E, 0x45, 0x53, 0x1A]) : parseRom file = .error .unsupportedRom := by
  unfold parseRom
  split
  · exact absurd rfl h
  · rfl

/-- R601: the PRG ROM starts after the header and the trainer. -/
theorem parseHeader_prgOffset (b4 b5 b6 b7 : Byte) :
    (parseHeader b4 b5 b6 b7).prgOffset = 16 + (if b6.getLsbD 2 then 512 else 0) := by
  show 16 + 512 * bitNat (b6.getLsbD 2) = _
  cases b6.getLsbD 2 <;> rfl

/-- R594, R602: the CHR RAM starts where the CHR ROM ends. -/
theorem Header.chrRamStart_eq (h : Header) : h.chrRamStart = h.chrSize := by
  unfold Header.chrRamStart Header.chrSize
  split_ifs with hbanks
  · rw [hbanks]
    rfl
  · rfl

/-- R600: a file that starts with the magic and these header bytes. -/
def romFile (b4 b5 b6 b7 : Byte) (rest : List Byte) : List Byte := [0x4E, 0x45, 0x53, 0x1A, b4, b5, b6, b7] ++ rest

/-- R601: the length a file of this header must have. -/
def Header.fileSize (h : Header) : Nat := h.prgOffset + h.prgSize + h.chrSize

section
variable {b4 b5 b6 b7 : Byte} {rest : List Byte}

/-- R601 (D49): a file with no PRG bank, or shorter than its header says. -/
theorem parseRom_inconsistent
    (h : (parseHeader b4 b5 b6 b7).prgSize = 0 ∨ (romFile b4 b5 b6 b7 rest).length < (parseHeader b4 b5 b6 b7).fileSize) :
    parseRom (romFile b4 b5 b6 b7 rest) = .error .unsupportedRom := if_pos h

/-- R603: a consistent file of a mapper that is not supported. -/
theorem parseRom_unsupported (hprg : (parseHeader b4 b5 b6 b7).prgSize ≠ 0)
    (hlength : (parseHeader b4 b5 b6 b7).fileSize ≤ (romFile b4 b5 b6 b7 rest).length)
    (hmapper : mapperOfNumber (parseHeader b4 b5 b6 b7).mapper.toNat = none) :
    parseRom (romFile b4 b5 b6 b7 rest) = .error (.unsupportedMapper (parseHeader b4 b5 b6 b7).mapper.toNat) := by
  refine (if_neg (not_or.mpr ⟨hprg, Nat.not_lt.mpr hlength⟩)).trans ?_
  rw [hmapper]

/-- R600, R601, R603: a consistent file of a supported mapper. -/
theorem parseRom_ok {v : MapperVariant} (hprg : (parseHeader b4 b5 b6 b7).prgSize ≠ 0)
    (hlength : (parseHeader b4 b5 b6 b7).fileSize ≤ (romFile b4 b5 b6 b7 rest).length)
    (hmapper : mapperOfNumber (parseHeader b4 b5 b6 b7).mapper.toNat = some v) :
    parseRom (romFile b4 b5 b6 b7 rest) = .ok (buildCartridge (parseHeader b4 b5 b6 b7) v (romFile b4 b5 b6 b7 rest)) := by
  refine (if_neg (not_or.mpr ⟨hprg, Nat.not_lt.mpr hlength⟩)).trans ?_
  rw [hmapper]

end

/-- R711: a file the loader refuses. -/
theorem loadRom_of_error {bytes : List Byte} {e : HostError} (h : parseRom bytes = .error e) (s : State) :
    loadRom bytes s = .error e := by
  unfold loadRom
  rw [h]

/-- R712: a file it accepts. -/
theorem loadRom_of_ok {bytes : List Byte} {c : Cartridge} (h : parseRom bytes = .ok c) (s : State) :
    loadRom bytes s = .ok (systemReset { s with cart := c, romLoaded := true }) := by
  unfold loadRom
  rw [h]

/-- R602: the PRG ROM's bytes, after the header and the trainer. -/
theorem buildCartridge_prgRom (h : Header) (v : MapperVariant) (bytes : List Byte) {k : Nat} (hk : k < h.prgSize) :
    (buildCartridge h v bytes).prgRom.read k = bytes.getD (h.prgOffset + k) 0 :=
  (Memory.read_ofBytes_slice _ _ _ k).trans (if_pos hk)

/-- R602: the CHR ROM's bytes, after the PRG ROM. -/
theorem buildCartridge_chrRom (h : Header) (v : MapperVariant) (bytes : List Byte) {k : Nat} (hk : k < h.chrSize) :
    (buildCartridge h v bytes).chr.read k = bytes.getD (h.prgOffset + h.prgSize + k) 0 :=
  (Memory.read_ofBytes_slice _ _ _ k).trans (if_pos hk)

/-- R594, D33: CHR RAM starts as $00. -/
theorem buildCartridge_chrRam (h : Header) (v : MapperVariant) (bytes : List Byte) {k : Nat} (hk : h.chrSize ≤ k) :
    (buildCartridge h v bytes).chr.read k = 0 :=
  (Memory.read_ofBytes_slice _ _ _ k).trans (if_neg (Nat.not_lt.mpr hk))

/-- Settles O59: the parser's three answers, and of the cartridge it builds, the byte each memory holds at an offset of the file. -/
theorem loadRomReadsTheFile : Obligations.LoadRomReadsTheFile := by
  unfold Obligations.LoadRomReadsTheFile
  intro b4 b5 b6 b7 rest s bytes mapper mirroring start need
  have hheader := parseHeader_eq b4 b5 b6 b7
  have hoffset : (parseHeader b4 b5 b6 b7).prgOffset = start := parseHeader_prgOffset b4 b5 b6 b7
  have hmapper : (parseHeader b4 b5 b6 b7).mapper.toNat = mapper := toNat_mapperNumber b6 b7
  have hsize : (parseHeader b4 b5 b6 b7).fileSize = need := by
    rw [Header.fileSize, hoffset]
    rfl
  have hempty : (parseHeader b4 b5 b6 b7).prgSize = 0 ↔ b4 = 0 := by
    rw [← BitVec.toNat_inj]
    exact Nat.mul_eq_zero.trans (or_iff_left (by decide))
  refine ⟨fun file hmagic => loadRom_of_error (parseRom_magic hmagic) s, fun hbad => ?inconsistent,
    fun hprg hlength hnone => ?unsupported, fun hprg hlength v hv => ?loads⟩
  case inconsistent => exact loadRom_of_error (parseRom_inconsistent (by rwa [hempty, hsize])) s
  case unsupported =>
    rw [← hmapper] at hnone ⊢
    exact loadRom_of_error (parseRom_unsupported (hempty.not.mpr hprg) (hsize ▸ hlength) hnone) s
  case loads =>
    have hparse := parseRom_ok (rest := rest) (hempty.not.mpr hprg) (hsize ▸ hlength) (hmapper ▸ hv)
    have hload := loadRom_of_ok hparse s
    rw [systemReset_eq] at hload
    refine ⟨_, hload, ?reset, hheader, rfl, congrArg Header.mirroring hheader, rfl, rfl, fun k hk => ?prg, rfl, Header.chrRamStart_eq _,
      fun k hk => ?chrRom, fun k hk => ?chrRam, rfl, rfl, rfl, rfl, rfl, rfl, rfl⟩
    case reset => exact (systemReset_eq _).symm
    case prg =>
      rw [← hoffset]
      exact buildCartridge_prgRom _ v bytes hk
    case chrRom =>
      rw [← hoffset]
      exact buildCartridge_chrRom _ v bytes hk
    case chrRam => exact buildCartridge_chrRam _ v bytes hk

end Sys2Proof.Machine
end

section
/-! PROOFS. The family 30_encoding.md: decoding what was encoded (R140, R158, R162), and the illegal opcodes (R159). -/

namespace Sys2Proof
open Sys2Proof.Machine Sys2Proof.Laws

/-- R140, R158: `Sys2Proof.Laws.EncodingShape` holds of every constructor. -/
theorem encodingShape (i : Instr) : EncodingShape.Statement i := by
  cases i
  case lda o => exact EncodingShape.lda o
  case ldx o => exact EncodingShape.ldx o
  case ldy o => exact EncodingShape.ldy o
  case sta m => exact EncodingShape.sta m
  case stx m => exact EncodingShape.stx m
  case sty m => exact EncodingShape.sty m
  case tax => exact EncodingShape.tax
  case tay => exact EncodingShape.tay
  case txa => exact EncodingShape.txa
  case tya => exact EncodingShape.tya
  case tsx => exact EncodingShape.tsx
  case txs => exact EncodingShape.txs
  case pha => exact EncodingShape.pha
  case pla => exact EncodingShape.pla
  case php => exact EncodingShape.php
  case plp => exact EncodingShape.plp
  case adc o => exact EncodingShape.adc o
  case sbc o => exact EncodingShape.sbc o
  case and o => exact EncodingShape.and o
  case ora o => exact EncodingShape.ora o
  case eor o => exact EncodingShape.eor o
  case bit m => exact EncodingShape.bit m
  case cmp o => exact EncodingShape.cmp o
  case cpx o => exact EncodingShape.cpx o
  case cpy o => exact EncodingShape.cpy o
  case inc m => exact EncodingShape.inc m
  case dec m => exact EncodingShape.dec m
  case inx => exact EncodingShape.inx
  case iny => exact EncodingShape.iny
  case dex => exact EncodingShape.dex
  case dey => exact EncodingShape.dey
  case asl o => exact EncodingShape.asl o
  case lsr o => exact EncodingShape.lsr o
  case rol o => exact EncodingShape.rol o
  case ror o => exact EncodingShape.ror o
  case bcc off => exact EncodingShape.bcc off
  case bcs off => exact EncodingShape.bcs off
  case beq off => exact EncodingShape.beq off
  case bmi off => exact EncodingShape.bmi off
  case bne off => exact EncodingShape.bne off
  case bpl off => exact EncodingShape.bpl off
  case bvc off => exact EncodingShape.bvc off
  case bvs off => exact EncodingShape.bvs off
  case jmp o => exact EncodingShape.jmp o
  case jsr w => exact EncodingShape.jsr w
  case rts => exact EncodingShape.rts
  case brk => exact EncodingShape.brk
  case rti => exact EncodingShape.rti
  case clc => exact EncodingShape.clc
  case sec => exact EncodingShape.sec
  case cli => exact EncodingShape.cli
  case sei => exact EncodingShape.sei
  case cld => exact EncodingShape.cld
  case sed => exact EncodingShape.sed
  case clv => exact EncodingShape.clv
  case nop => exact EncodingShape.nop
  case nopIllegal op => exact EncodingShape.nopIllegal op

/-- R141: a list that holds the whole instruction at its head is not cut short. -/
theorem decode_cons {op : Byte} {rest : List Byte} (h : opcodeLength op ≤ rest.length + 1) :
    decode (op :: rest) = .instr (decodeByte op (rest.getD 0 0) (rest.getD 1 0)) (rest.drop (opcodeLength op - 1)) :=
  if_neg (Nat.not_lt.mpr h)

/-- R140, R141: the bytes an opcode's length takes are decoded with the opcode; a byte it does not take may be any. -/
theorem decode_take {op b1 b2 : Byte} {i : Instr} {n : Nat} (rest : List Byte) (hn : n = 1 ∨ n = 2 ∨ n = 3) (hlen : opcodeLength op = n)
    (hi : ∀ c1 c2, decodeByte op (if 2 ≤ n then b1 else c1) (if 3 ≤ n then b2 else c2) = i) :
    decode ([op, b1, b2].take n ++ rest) = .instr i rest := by
  rcases hn with rfl | rfl | rfl
  case inl =>
    rw [List.take_succ_cons, List.cons_append, decode_cons (by simp [hlen]), hlen]
    exact congrArg (Decoded.instr · rest) (hi _ _)
  case inr.inl =>
    rw [List.take_succ_cons, List.cons_append, decode_cons (by simp [hlen]), hlen]
    exact congrArg (Decoded.instr · rest) (hi 0 _)
  case inr.inr =>
    rw [List.take_succ_cons, List.cons_append, decode_cons (by simp [hlen]), hlen]
    exact congrArg (Decoded.instr · rest) (hi 0 0)

/-- Settles O3: `encodingShape` gives the bytes of the instruction and what they decode to, `decode_take` that the decoder takes them. -/
theorem decodeOfEncodeIsTheInstruction : Obligations.DecodeOfEncodeIsTheInstruction := by
  unfold Obligations.DecodeOfEncodeIsTheInstruction
  intro i rest hwf
  obtain ⟨op, b1, b2, hencode, -, -, hdecode⟩ := encodingShape i hwf
  have hlen : opcodeLength op = i.length := by
    rw [← decodeByte_length op (if 2 ≤ i.length then b1 else 0) (if 3 ≤ i.length then b2 else 0), hdecode]
  rw [hencode]
  exact decode_take rest i.length_cases hlen hdecode

/-- Settles O1: each word's opcode is a row of the map. -/
theorem sampleWordsDecode : Obligations.SampleWordsDecode := by
  unfold Obligations.SampleWordsDecode
  decide

/-- R159: the list repeats no opcode, since it is in order. -/
theorem illegalOpcodes_nodup : illegalOpcodes.Nodup := (nodup_of_zip_tail (illegalOpcodes.map BitVec.toNat) (by decide)).of_map _

/-- Settles O2: an opcode in the list decodes to the no-op by `decodeByte_cases`; any other has a row, whose opcode is no no-op's. -/
theorem illegalOpcodesAreOneByteNops : Obligations.IllegalOpcodesAreOneByteNops := by
  unfold Obligations.IllegalOpcodesAreOneByteNops
  refine ⟨rfl, illegalOpcodes_nodup, fun op b1 b2 => ⟨fun hmem => ?illegal, fun hmem x hx => ?legal⟩⟩
  case illegal =>
    have hall : ∀ c1 c2, decodeByte op c1 c2 = .nopIllegal op := fun c1 c2 =>
      (decodeByte_cases op c1 c2).elim (fun h => absurd hmem h.2) And.right
    exact ⟨hall b1 b2, by rw [opcodeLength, hall]; rfl⟩
  case legal =>
    obtain ⟨hrow, -⟩ := (decodeByte_cases op b1 b2).resolve_right fun h => hmem h.1
    obtain ⟨hwf, hop, -⟩ := row_spec b1 _ hrow
    rw [hx] at hwf hop
    obtain rfl : x = op := by simpa [Instr.opcode] using hop
    exact hmem (List.contains_iff_mem.mp hwf)

end Sys2Proof
end

section
/-! PROOFS. The invariant of a safe run: the reset state meets it and every step keeps it (R36, R37, R40, R44, R52, R99 to R101, R513,
R545, R555; D17, D36, D37). -/

namespace Sys2Proof.Machine

/-! ## The invariant without the CPU's registers -/

/-- R8, R591, R593, R594: the cartridge's memories are in form and size, ROM and CHR not empty. -/
def CartOk (c : Cartridge) : Prop :=
  c.prgRam.Ok 8192 ∧ c.prgRom.Ok c.prgSize ∧ c.chr.Ok c.chrSize ∧ 0 < c.prgSize ∧ 0 < c.chrSize

/-- R8, R52, R99 to R101, R513, R530, R536: the PPU's memories, frame buffer, position and sprite units are in range. -/
structure PpuOk (p : Ppu) : Prop where
  nametable : p.nametable.Ok 4096
  palette : p.palette.Ok 32
  oam : p.oam.Ok 256
  secondaryOam : p.secondaryOam.Ok 32
  frameBuffer : p.frameBuffer.wf ∧ ∀ c ∈ p.frameBuffer, c.1 < 61440
  grid : -1 ≤ p.scanline ∧ p.scanline ≤ 260 ∧ p.cycle ≤ 340
  sprites : p.sprites.length = 8 ∧ p.spriteCount ≤ 8

/-- R549: `bits_remaining` of the DMC in range. -/
def BitsOk (n : Nat) : Prop := 1 ≤ n ∧ n ≤ 8

/-- The invariant's parts that do not speak of the CPU's registers, one a block of the System. -/
structure BlocksOk (s : State) : Prop where
  ram : s.ram.Ok 2048
  cart : CartOk s.cart
  ppu : PpuOk s.ppu
  apu : ApuOk s.config.frameWrap s.apu
  bits : BitsOk s.apu.dmc.bitsRemaining
  stall : s.dmcStall ≤ 4

/-- The invariant is that of the blocks and the CPU's own part. -/
theorem inv_iff (s : State) : s.Inv ↔ BlocksOk s ∧ StatusOk s ∧ s.cpu.cyclesRemaining ≤ 8 := by
  constructor
  · rintro ⟨hstatus, ⟨hram, hcart, ⟨hnt, hpal, hoam, hsec⟩, hfb⟩, hgrid, hsprites, ⟨hcycles, hstall⟩, ⟨hframe, hbits⟩,
      ⟨h1, h2, h3, h4, h5, h6, h7⟩⟩
    exact ⟨⟨hram, hcart, ⟨hnt, hpal, hoam, hsec, hfb, hgrid, hsprites⟩, ⟨h1, h2, h3, h4, h5, h6, h7, hframe⟩, hbits, hstall⟩,
      hstatus, hcycles⟩
  · rintro ⟨⟨hram, hcart, ⟨hnt, hpal, hoam, hsec, hfb, hgrid, hsprites⟩, ⟨h1, h2, h3, h4, h5, h6, h7, hframe⟩, hbits, hstall⟩,
      hstatus, hcycles⟩
    exact ⟨hstatus, ⟨hram, hcart, ⟨hnt, hpal, hoam, hsec⟩, hfb⟩, hgrid, hsprites, ⟨hcycles, hstall⟩, ⟨hframe, hbits⟩,
      ⟨h1, h2, h3, h4, h5, h6, h7⟩⟩

/-! ## What keeps each block's part -/

theorem CartKept.ok {c d : Cartridge} (h : CartKept c d) (hc : CartOk c) : CartOk d := by
  obtain ⟨hprgRam, hprgRom, hchr, hprg, hsize⟩ := hc
  refine ⟨h.prgRam hprgRam, ?_, ?_, ?_, ?_⟩
  · rw [h.prgRom, h.prgSize]; exact hprgRom
  · rw [h.chrSize]; exact h.chr hsize hchr
  · rw [h.prgSize]; exact hprg
  · rw [h.chrSize]; exact hsize

theorem ppuRegRead_ppuOk (k : Nat) (c : Cartridge) {p : Ppu} (h : PpuOk p) : PpuOk (ppuRegRead k c p).2 := by
  rw [ppuRegRead_frame]
  exact ⟨h.nametable, h.palette, h.oam, h.secondaryOam, h.frameBuffer, h.grid, h.sprites⟩

theorem ppuRegWrite_ppuOk (k : Nat) (d : Byte) (c : Cartridge) {p : Ppu} (h : PpuOk p) : PpuOk (ppuRegWrite k d c p).1 := by
  obtain ⟨hnt, hpal, hoam, hsec, hfb, hline, hcycle, hsprites, hcount, -⟩ := ppuRegWrite_ok k d c p
  refine ⟨hnt h.nametable, hpal h.palette, hoam h.oam, ?_, ?_, ?_, ?_⟩
  · rw [hsec]; exact h.secondaryOam
  · rw [hfb]; exact h.frameBuffer
  · rw [hline, hcycle]; exact h.grid
  · rw [hsprites, hcount]; exact h.sprites

theorem ppuDot_ppuOk (c : Cartridge) {p : Ppu} (h : PpuOk p) : PpuOk (ppuDot c p) := by
  obtain ⟨-, -, -, -, -, -, -, hnt, hpal, hoam⟩ := ppuDot_frame c p
  obtain ⟨hline, hline', hcycle⟩ := h.grid
  obtain ⟨hlength, hcount⟩ := h.sprites
  obtain ⟨hsprites, hsec⟩ := ppuDot_sprites c p
  refine ⟨?_, ?_, ?_, hsec h.secondaryOam, ppuDot_frameBuffer c p h.frameBuffer, ppuDot_grid c p hline hline' hcycle,
    hsprites hlength hcount⟩
  · rw [hnt]; exact h.nametable
  · rw [hpal]; exact h.palette
  · rw [hoam]; exact h.oam

/-- The DMC's registers are no part of what `ApuOk` bounds. -/
theorem ApuOk.setDmc {w : FrameWrap} {a : Apu} (h : ApuOk w a) (d : Dmc) : ApuOk w { a with dmc := d } :=
  ⟨h.p1, h.p2, h.tri, h.noise, h.d1, h.d2, h.dn, h.frame⟩

theorem ApuOk.setFrameIrq {w : FrameWrap} {a : Apu} (h : ApuOk w a) (x : Bool) : ApuOk w { a with frame := { a.frame with irq := x } } :=
  ⟨h.p1, h.p2, h.tri, h.noise, h.d1, h.d2, h.dn, h.frame⟩

theorem ApuOk.stepTriangle {w : FrameWrap} {a : Apu} (h : ApuOk w a) : ApuOk w { a with triangle := stepTriangle a.triangle } :=
  ⟨h.p1, h.p2, (stepTriangle_length a.triangle).trans_le h.tri, h.noise, h.d1, h.d2, h.dn, h.frame⟩

theorem ApuOk.stepTimers {w : FrameWrap} {a : Apu} (h : ApuOk w a) (table : List Nat) : ApuOk w (stepTimers table a) := by
  obtain ⟨hlength1, henvelope1⟩ := stepPulse_kept a.pulse1
  obtain ⟨hlength2, henvelope2⟩ := stepPulse_kept a.pulse2
  obtain ⟨hlengthN, henvelopeN⟩ := stepNoise_kept table a.noise
  exact ⟨hlength1.trans_le h.p1, hlength2.trans_le h.p2, h.tri, hlengthN.trans_le h.noise,
    (congrArg Envelope.decay henvelope1).trans_le h.d1, (congrArg Envelope.decay henvelope2).trans_le h.d2,
    (congrArg Envelope.decay henvelopeN).trans_le h.dn, h.frame⟩

/-! ## Bus accesses -/

theorem busRead_blocksOk (a : Word) {s : State} (h : BlocksOk s) : BlocksOk (busRead a s).2 := by
  have k := busRead_cases a s
  generalize busRead a s = r at k
  cases k
  case ppu => exact { h with ppu := ppuRegRead_ppuOk _ _ h.ppu }
  case status => exact { h with apu := h.apu.setFrameIrq false, bits := h.bits }
  case pad1 | pad2 => exact { h with }
  all_goals exact h

theorem busWrite_blocksOk (a : Word) (v : Byte) {s : State} (h : BlocksOk s) : BlocksOk (busWrite a v s) := by
  have hcart : CartOk (busWrite a v s).cart := (busWrite_cart a v s).ok h.cart
  have k := busWrite_cases a v s
  generalize busWrite a v s = t at k hcart
  cases k
  case ram => exact { h with ram := Memory.write_ok _ _ _ _ (Nat.mod_lt _ (by decide)) h.ram }
  case ppu => exact { h with ppu := ppuRegWrite_ppuOk _ _ _ h.ppu, cart := hcart }
  case apu _ _ k _ =>
    exact { h with apu := writeApuChannel_ok k v h.apu, bits := (writeApuChannel_bits k v s.apu).symm ▸ h.bits }
  case status => exact { h with apu := writeApuStatus_ok v h.apu, bits := (writeApuStatus_bits v s.apu).symm ▸ h.bits }
  case frame => exact { h with apu := writeFrameCounter_ok v h.apu, bits := (writeFrameCounter_bits v s.apu).symm ▸ h.bits }
  case mapper | prgRam => exact { h with cart := hcart }
  case dma | strobe => exact { h with }
  case nothing => exact h

/-! ## The step -/

/-- Every update a step is made of keeps the blocks' part of the invariant. -/
theorem stepInvariant_blocksOk : StepInvariant BlocksOk BitsOk where
  read a _ h := busRead_blocksOk a h
  write a v _ h := busWrite_blocksOk a v h
  cpu _ _ h := { h with }
  stall _ h := { h with stall := Nat.min_le_left _ _ }
  dmc d _ hd h := { h with apu := h.apu.setDmc d, bits := hd }
  sequencer s h := { h with apu := (frameTick_ok h.apu).stepTriangle, bits := (congrArg Dmc.bitsRemaining (frameTick_dmc _ _)).symm ▸ h.bits }
  timers s h := { h with apu := h.apu.stepTimers _, bits := h.bits }
  output s h := { h with apu := resample_ok _ _ h.apu, bits := (congrArg Dmc.bitsRemaining (resample_dmc _ _)).symm ▸ h.bits }
  eight := ⟨by decide, by decide⟩
  fewer n hn hne := ⟨Nat.one_le_iff_ne_zero.mpr hne, (Nat.sub_le n 1).trans hn.2⟩
  bits _ h := h.bits
  dma _ _ h := { h with }
  oam k v s hk h := { h with ppu := { h.ppu with oam := Memory.write_ok _ k v _ hk h.ppu.oam } }
  unstall _ h := { h with stall := (Nat.sub_le _ _).trans h.stall }
  mapperTick _ h := { h with cart := (mapperCpuTick_kept _).ok h.cart }
  noNmi _ h := { h with ppu := { h.ppu with } }
  noMapperIrq s h := { h with cart := h.cart }
  slots _ h := { h with }
  cycles _ h := { h with }
  dot s h := by
    have hdot := ppuDot_ppuOk s.cart h.ppu
    unfold dotPhase
    dsimp only
    split_ifs
    · exact { h with ppu := { hdot with }, cart := (mapperScanlineTick_kept s.cart).ok h.cart }
    · exact { h with ppu := hdot }

/-- Settles O46: the blocks' part is kept by `stepInvariant_blocksOk`, the CPU's by `step_kept`. -/
theorem stepKeepsTheInvariant : Obligations.StepKeepsTheInvariant := by
  unfold Obligations.StepKeepsTheInvariant
  intro s t hinv hstep
  obtain ⟨hblocks, ⟨hu, hb⟩, hcycles⟩ := (inv_iff s).mp hinv
  have hkept := step_kept hstep
  exact (inv_iff t).mpr ⟨stepInvariant_blocksOk.step hblocks hstep, hkept.status hu hb, hkept.remaining hcycles⟩

/-- Settles O45: every memory of the reset state is empty and every counter is written out. -/
theorem resetMeetsTheInvariant : Obligations.ResetMeetsTheInvariant := by
  unfold Obligations.ResetMeetsTheInvariant
  rw [inv_iff]
  refine ⟨⟨Memory.nil_ok _, ⟨Memory.nil_ok _, Memory.nil_ok _, Memory.nil_ok _, by decide, by decide⟩, ?ppu, ?apu, ⟨by decide, by decide⟩, by decide⟩,
    ⟨by decide, by decide⟩, by decide⟩
  case ppu => exact ⟨Memory.nil_ok _, Memory.nil_ok _, Memory.nil_ok _, Memory.nil_ok _, by decide, by decide, by decide⟩
  case apu => constructor <;> decide

end Sys2Proof.Machine
end

section
/-! PROOFS. The families 40_load_store.md and 43_flags_misc.md: loads, stores, transfers, the stack, flag instructions and no-operation. -/

namespace Sys2Proof.Machine

/-! ## Instructions that end in setting the CPU's registers -/

/-- R401: the end of an instruction that started in `s`, has left everything outside the CPU as in `u`, and leaves the CPU's registers as
`r`, no flag but `fs` differing. -/
theorem setCpu_complete {s u : State} {r : Cpu} (n : Nat) {fs : List Flag} (hflags : ∀ f, f ≠ .u → f ∉ fs → r.flag f = s.cpu.flag f)
    (htotal : r.totalCycles = s.cpu.totalCycles) (hconfig : u.config = s.config) :
    let t := complete n (setCpu r u)
    RegsAre t r.a r.x r.y r.sp r.pc ∧ OnlyFlags fs s t ∧ Paced n s t ∧ SameOutsideCpu u t :=
  ⟨⟨rfl, rfl, rfl, rfl, rfl⟩, onlyFlags_complete n hflags, paced_complete n htotal hconfig, same_complete n (sameOutsideCpu_setCpu r u)⟩

/-- R16, R401: the same, of registers that differ from those of `s` in N and Z, set from the byte `v`, and not in P otherwise. -/
theorem setNZ_complete {s u : State} {r : Cpu} (n : Nat) (v : Byte) (hp : r.p = s.cpu.p) (htotal : r.totalCycles = s.cpu.totalCycles)
    (hconfig : u.config = s.config) :
    let t := complete n (setCpu (setNZ v r) u)
    RegsAre t r.a r.x r.y r.sp r.pc ∧ NZOf v t ∧ OnlyFlags [.n, .z] s t ∧ Paced n s t ∧ SameOutsideCpu u t := by
  have hflags : ∀ f : Flag, f ≠ .u → f ∉ [Flag.n, .z] → (setNZ v r).flag f = s.cpu.flag f := by
    intro f _ hf
    rw [List.mem_cons, List.mem_singleton, not_or] at hf
    rw [Cpu.flag_setNZ, if_neg hf.2, if_neg hf.1, Cpu.flag_eq, Cpu.flag_eq, hp]
  obtain ⟨hregs, honly, hpaced, hsame⟩ := setCpu_complete (s := s) (u := u) n hflags htotal hconfig
  exact ⟨hregs, ⟨by simp, by simp⟩, honly, hpaced, hsame⟩

/-! ## Loads -/

/-- R200 to R202, R233 to R235: an instruction that reads the operand `o` and leaves a byte `v` in a register, with N and Z from it. -/
theorem finishOperand_setNZ {s : State} {r : Cpu} (o : ReadOperand) (v : Byte) (hp : r.p = s.cpu.p)
    (htotal : r.totalCycles = s.cpu.totalCycles) :
    let t := finishOperand o (setNZ v r) s
    RegsAre t r.a r.x r.y r.sp r.pc ∧ NZOf v t ∧ OnlyFlags [.n, .z] s t ∧ Paced (readOperand o s).cycles s t ∧ OperandFrame o s t := by
  obtain ⟨hregs, hnz, hflags, hpaced, -⟩ := setNZ_complete _ v hp htotal (readOperand_config o s)
  exact ⟨hregs, hnz, hflags, hpaced, finishOperand_frame o _ s⟩

theorem exec_lda (o : ReadOperand) (s : State) :
    exec (.lda o) s = .next (finishOperand o (setNZ (readOperand o s).value { s.cpu with a := (readOperand o s).value }) s) := by
  simp only [exec, execLda, readOperand_cpu, finishOperand]

theorem exec_ldx (o : ReadOperand) (s : State) :
    exec (.ldx o) s = .next (finishOperand o (setNZ (readOperand o s).value { s.cpu with x := (readOperand o s).value }) s) := by
  simp only [exec, execLdx, readOperand_cpu, finishOperand]

theorem exec_ldy (o : ReadOperand) (s : State) :
    exec (.ldy o) s = .next (finishOperand o (setNZ (readOperand o s).value { s.cpu with y := (readOperand o s).value }) s) := by
  simp only [exec, execLdy, readOperand_cpu, finishOperand]

/-- Settles O10: each load ends as `finishOperand_setNZ` says, with the operand in its register. -/
theorem loadsCompleteWithNZ : Obligations.LoadsCompleteWithNZ := by
  unfold Obligations.LoadsCompleteWithNZ
  intro o s v
  exact ⟨⟨_, exec_lda o s, finishOperand_setNZ o _ rfl rfl⟩, ⟨_, exec_ldx o s, finishOperand_setNZ o _ rfl rfl⟩,
    ⟨_, exec_ldy o s, finishOperand_setNZ o _ rfl rfl⟩⟩

/-! ## Stores -/

/-- R203 to R205: the end of a store of the byte `v`. -/
theorem store_complete (m : MemMode) (v : Byte) {s : State} (hmem : MemoryOk s) :
    let t := complete (storeCycles m) (store m v s)
    (RegsAre t s.cpu.a s.cpu.x s.cpu.y s.cpu.sp s.cpu.pc ∧ OnlyFlags [] s t ∧ Paced (storeCycles m) s t)
      ∧ ByteStored (effective m s).ea v s s t := by
  obtain ⟨⟨hram, -⟩, ⟨⟨hprg, -⟩, -⟩, -⟩ := hmem
  have hstore : store m v s = busWrite (effective m s).ea v s := by rw [store, effective_state]
  rw [hstore]
  refine ⟨⟨?_, onlyFlags_complete _ ?_, paced_complete _ ?_ ?_⟩,
    byteStored_of _ v (sameOutsideCpu_complete _ _) (.inl rfl) hram hprg⟩
  · simp [RegsAre]
  · simp
  · simp
  · simp

/-- R158, R203: the cycles of a store, by its mode. -/
theorem storeCycles_eq (m : MemMode) :
    storeCycles m =
      match m with
      | .zp _ => 3
      | .zpx _ | .zpy _ | .abs _ => 4
      | .absx _ | .absy _ => 5
      | .izx _ | .izy _ => 6 := by
  cases m <;> rfl

/-- Settles O11: the three stores end as `store_complete` says, for A, X and Y. -/
theorem storesCompleteWithOneByte : Obligations.StoresCompleteWithOneByte := by
  unfold Obligations.StoresCompleteWithOneByte
  intro m s hmem ea n kept
  have hn : n = storeCycles m := (storeCycles_eq m).symm
  have hdone : ∀ v, kept (complete (storeCycles m) (store m v s)) ∧ ByteStored ea v s s (complete (storeCycles m) (store m v s)) := by
    intro v
    simp only [kept, hn]
    exact store_complete m v hmem
  exact ⟨⟨_, rfl, hdone _⟩, ⟨_, rfl, hdone _⟩, ⟨_, rfl, hdone _⟩⟩

/-! ## Transfers -/

/-- R206 to R210, R243 to R246: an instruction without a memory operand that leaves a byte `v` in a register, with N and Z from it. -/
theorem registerOp_complete {s : State} {r : Cpu} (v : Byte) (hp : r.p = s.cpu.p) (htotal : r.totalCycles = s.cpu.totalCycles) :
    let t := complete 2 (setCpu (setNZ v r) s)
    RegsAre t r.a r.x r.y r.sp r.pc ∧ NZOf v t ∧ OnlyFlags [.n, .z] s t ∧ Paced 2 s t ∧ NothingStored s t := by
  obtain ⟨hregs, hnz, hflags, hpaced, hsame⟩ := setNZ_complete 2 v hp htotal rfl
  exact ⟨hregs, hnz, hflags, hpaced, nothingStored_of_same hsame⟩

/-- Settles O12: the transfers that set N and Z end as `registerOp_complete` says; TXS sets SP alone. -/
theorem transfersComplete : Obligations.TransfersComplete := by
  unfold Obligations.TransfersComplete
  intro s r rest
  refine ⟨⟨_, rfl, registerOp_complete _ rfl rfl⟩, ⟨_, rfl, registerOp_complete _ rfl rfl⟩, ⟨_, rfl, registerOp_complete _ rfl rfl⟩,
    ⟨_, rfl, registerOp_complete _ rfl rfl⟩, ⟨_, rfl, registerOp_complete _ rfl rfl⟩, ?txs⟩
  obtain ⟨hregs, hflags, hpaced, hsame⟩ :=
    setCpu_complete (s := s) (u := s) (r := { s.cpu with sp := s.cpu.x }) 2 (fs := []) (fun _ _ _ => rfl) rfl rfl
  exact ⟨_, rfl, hregs, hflags, hpaced, nothingStored_of_same hsame⟩

/-- Settles O21: INX, INY, DEX and DEY end as `registerOp_complete` says. -/
theorem registerIncDecComplete : Obligations.RegisterIncDecComplete := by
  unfold Obligations.RegisterIncDecComplete
  intro s r rest
  exact ⟨⟨_, rfl, registerOp_complete _ rfl rfl⟩, ⟨_, rfl, registerOp_complete _ rfl rfl⟩, ⟨_, rfl, registerOp_complete _ rfl rfl⟩,
    ⟨_, rfl, registerOp_complete _ rfl rfl⟩⟩

/-! ## The stack -/

/-- R86: one byte pushed is one byte of RAM stored. -/
theorem push_ramStored (v : Byte) {s t : State} (hwf : s.ram.wf) (ht : SameOutsideCpu (push v s) t) :
    RamStored [(stackAddr s.cpu.sp, v)] s t := by
  have hsame : SameOutsideCpu (busWrite (stackAddr s.cpu.sp) v s) t := (sameOutsideCpu_setSp _ _).trans ht
  rw [busWrite_ram v s (inRam_stackAddr _)] at hsame
  obtain ⟨hram, hrest⟩ := hsame
  exact ramStored_of _ hram hwf (by simp [inRam_stackAddr]) (by simp) ⟨rfl, hrest⟩

/-- R212, R214: the end of an instruction that pushes the byte `v`. -/
theorem push_complete (v : Byte) {s : State} (hmem : MemoryOk s) :
    let t := complete 3 (push v s)
    (RegsAre t s.cpu.a s.cpu.x s.cpu.y (s.cpu.sp - 1) s.cpu.pc ∧ OnlyFlags [] s t ∧ Paced 3 s t)
      ∧ RamStored [(stackAddr s.cpu.sp, v)] s t := by
  obtain ⟨⟨hram, -⟩, -⟩ := hmem
  refine ⟨⟨?_, onlyFlags_complete _ ?_, paced_complete _ ?_ ?_⟩, push_ramStored v hram (sameOutsideCpu_complete _ _)⟩
  · simp [RegsAre]
  · simp [Cpu.flag_eq]
  · simp
  · rw [push_eq]

/-- Settles O13: PHA and PHP end as `push_complete` says. -/
theorem pushesComplete : Obligations.PushesComplete := by
  unfold Obligations.PushesComplete
  intro s hmem kept
  exact ⟨⟨_, rfl, push_complete _ hmem⟩, ⟨_, rfl, push_complete _ hmem⟩⟩

/-- R87: a pull reads the byte above SP, which is RAM, and moves SP. -/
theorem pull_readsAs (s : State) : pull s = (readsAs s (stackAddr (s.cpu.sp + 1)), setSp (s.cpu.sp + 1) s) := by
  have hsp := (s.cpu.sp + 1).isLt
  rw [pull_eq, readsAs_ram s (inRam_stackAddr _), stackAddr_toNat, Nat.mod_eq_of_lt (by omega)]

/-- R401: a pulled status has U set already. -/
theorem setFlag_u_pulledStatus (v : Byte) : setFlag .u true (pulledStatus v) = pulledStatus v :=
  flag_ext _ _ fun f => by simp

/-- Settles O14: both pull the byte above SP; PLA sets N and Z from it, PLP takes it as the status. -/
theorem pullsComplete : Obligations.PullsComplete := by
  unfold Obligations.PullsComplete
  intro s v
  have hpull : pull s = (v, setSp (s.cpu.sp + 1) s) := pull_readsAs s
  refine ⟨?pla, ?plp⟩
  case pla =>
    have hexec : exec .pla s = .next (complete 4 (setCpu (setNZ v { s.cpu with sp := s.cpu.sp + 1, a := v }) s)) := by
      simp only [exec, execPla, hpull]
      rfl
    obtain ⟨hregs, hnz, hflags, hpaced, hsame⟩ :=
      setNZ_complete (s := s) (u := s) (r := { s.cpu with sp := s.cpu.sp + 1, a := v }) 4 v rfl rfl rfl
    exact ⟨_, hexec, hregs, hnz, hflags, hpaced, nothingStored_of_same hsame⟩
  case plp =>
    have hexec : exec .plp s = .next (complete 4 (setP (pulledStatus v) (setSp (s.cpu.sp + 1) s))) := by
      simp only [exec, execPlp, hpull]
    refine ⟨_, hexec, ⟨rfl, rfl, rfl, rfl, rfl⟩, setFlag_u_pulledStatus v, paced_complete 4 rfl rfl, nothingStored_of_same ?_⟩
    exact same_complete 4 ((sameOutsideCpu_setSp _ s).trans (sameOutsideCpu_setP _ _))

/-! ## Flags and no-operation -/

/-- R300 to R306: the end of an instruction that writes one flag. -/
theorem setFlag_complete (f : Flag) (x : Bool) (s : State) (hf : f ≠ .u) :
    let t := complete 2 (setCpu (s.cpu.setFlag f x) s)
    RegsAre t s.cpu.a s.cpu.x s.cpu.y s.cpu.sp s.cpu.pc ∧ t.cpu.flag f = x ∧ OnlyFlags [f] s t ∧ Paced 2 s t ∧ NothingStored s t := by
  have hflags : ∀ g : Flag, g ≠ .u → g ∉ [f] → (s.cpu.setFlag f x).flag g = s.cpu.flag g := by
    intro g _ hg
    rw [Cpu.flag_setFlag, if_neg (by simpa using hg)]
  obtain ⟨hregs, honly, hpaced, hsame⟩ := setCpu_complete (u := s) 2 hflags rfl rfl
  exact ⟨hregs, by simp [hf], honly, hpaced, nothingStored_of_same hsame⟩

/-- Settles O31: the seven instructions end as `setFlag_complete` says. -/
theorem flagInstructionsComplete : Obligations.FlagInstructionsComplete := by
  unfold Obligations.FlagInstructionsComplete
  intro s done
  have hdone : ∀ f x, f ≠ .u → done f x (complete 2 (setCpu (s.cpu.setFlag f x) s)) := fun f x hf => setFlag_complete f x s hf
  exact ⟨⟨_, rfl, hdone _ _ (by decide)⟩, ⟨_, rfl, hdone _ _ (by decide)⟩, ⟨_, rfl, hdone _ _ (by decide)⟩,
    ⟨_, rfl, hdone _ _ (by decide)⟩, ⟨_, rfl, hdone _ _ (by decide)⟩, ⟨_, rfl, hdone _ _ (by decide)⟩, ⟨_, rfl, hdone _ _ (by decide)⟩⟩

/-- Settles O32: both are the bare completion. -/
theorem nopAndIllegalOpcodesComplete : Obligations.NopAndIllegalOpcodesComplete := by
  unfold Obligations.NopAndIllegalOpcodesComplete
  intro op s idle
  obtain ⟨hregs, hflags, hpaced, hsame⟩ :=
    setCpu_complete (s := s) (u := s) (r := s.cpu) 2 (fs := []) (fun _ _ _ => rfl) rfl rfl
  have hidle : idle (complete 2 s) := ⟨hregs, hflags, hpaced, nothingStored_of_same hsame⟩
  exact ⟨⟨_, rfl, hidle⟩, ⟨_, rfl, hidle⟩⟩

end Sys2Proof.Machine
end

section
/-! PROOFS. The family 41_arithmetic_logic.md: arithmetic, logic, increments and shifts (R230 to R252). -/

namespace Sys2Proof.Machine

/-! ## Addition and subtraction -/

/-- R230, R231: an addition changes N, V, Z and C alone. -/
theorem addWithCarry_flag_other (m : Byte) (r : Cpu) {f : Flag} (hf : f ∉ [.n, .v, .z, .c]) : (addWithCarry m r).flag f = r.flag f := by
  rw [addWithCarry_flag]
  cases f
  case n | v | z | c => simp at hf
  all_goals rfl

/-- R230 to R232: the end of an instruction that reads the operand `o` and adds the byte `m` and C to A. -/
theorem addWithCarry_finish (o : ReadOperand) (m : Byte) (s : State) :
    let c := bitNat (s.cpu.flag .c)
    let sum := s.cpu.a.toNat + m.toNat + c
    let signed := s.cpu.a.toInt + m.toInt + c
    let t := finishOperand o (addWithCarry m s.cpu) s
    RegsAre t (BitVec.ofNat 8 sum) s.cpu.x s.cpu.y s.cpu.sp s.cpu.pc ∧ NZOf (BitVec.ofNat 8 sum) t
      ∧ t.cpu.flag .c = decide (255 < sum) ∧ t.cpu.flag .v = decide (signed < -128 ∨ 127 < signed)
      ∧ OnlyFlags [.n, .v, .z, .c] s t ∧ Paced (readOperand o s).cycles s t ∧ OperandFrame o s t := by
  intro c sum signed t
  have hflag : ∀ f : Flag, f ≠ .u → t.cpu.flag f = (addWithCarry m s.cpu).flag f := fun _ => finishOperand_flag o _ s
  refine ⟨finishOperand_regsAre o _ s, ⟨?n, ?z⟩, ?c, ?v, ?others, finishOperand_paced o rfl, finishOperand_frame o _ s⟩
  case n => rw [hflag _ (by decide), addWithCarry_flag]
  case z => rw [hflag _ (by decide), addWithCarry_flag]
  case c => rw [hflag _ (by decide), addWithCarry_flag]
  case v => rw [hflag _ (by decide), addWithCarry_flag]; exact overflow_eq _ _ _ (bitNat_le _)
  case others => exact finishOperand_onlyFlags o fun _ _ hf => addWithCarry_flag_other m s.cpu hf

theorem exec_adc (o : ReadOperand) (s : State) :
    exec (.adc o) s = .next (finishOperand o (addWithCarry (readOperand o s).value s.cpu) s) := by
  simp only [exec, execAdc, readOperand_cpu, finishOperand]

theorem exec_sbc (o : ReadOperand) (s : State) :
    exec (.sbc o) s = .next (finishOperand o (addWithCarry ((readOperand o s).value ^^^ 0xFF) s.cpu) s) := by
  simp only [exec, execSbc, readOperand_cpu, finishOperand]

/-- Settles O15: ADC adds the operand, as `addWithCarry_finish` says. -/
theorem adcCompletesWithCarryAndOverflow : Obligations.AdcCompletesWithCarryAndOverflow := by
  unfold Obligations.AdcCompletesWithCarryAndOverflow
  intro o s v c sum signed
  exact ⟨_, exec_adc o s, addWithCarry_finish o _ s⟩

/-- R231: the complement of a byte, as a number without a sign and with one. -/
theorem toNat_complement (m : Byte) : (m ^^^ 0xFF).toNat = 255 - m.toNat := by
  have hm : m ^^^ 0xFF = ~~~m := BitVec.xor_allOnes
  rw [hm, BitVec.toNat_not]

theorem toInt_complement (m : Byte) : (m ^^^ 0xFF).toInt = -1 - m.toInt := by
  have hm : m ^^^ 0xFF = ~~~m := BitVec.xor_allOnes
  rw [hm, BitVec.toInt_not]
  have := BitVec.toInt_lt (x := m)
  have := BitVec.le_toInt m
  have := m.isLt
  rw [BitVec.toInt_eq_toNat_cond, Int.bmod_def]
  split_ifs <;> omega

/-- Settles O16: SBC adds the complement of the operand, and the sum, the carry and the signed sum of that are the difference, the
no-borrow and the signed difference. -/
theorem sbcCompletesWithBorrowAndOverflow : Obligations.SbcCompletesWithBorrowAndOverflow := by
  unfold Obligations.SbcCompletesWithBorrowAndOverflow
  intro o s v b diff signed
  have hadd := addWithCarry_finish o (v.value ^^^ 0xFF) s
  have hb : b + bitNat (s.cpu.flag .c) = 1 := Nat.sub_add_cancel (bitNat_le _)
  have hv := v.value.isLt
  have hdiff : BitVec.ofNat 8 (s.cpu.a.toNat + (v.value ^^^ 0xFF).toNat + bitNat (s.cpu.flag .c)) = diff := by
    apply BitVec.eq_of_toNat_eq
    simp only [diff, toNat_complement, BitVec.toNat_sub, BitVec.toNat_ofNat]
    omega
  have hcarry : 255 < s.cpu.a.toNat + (v.value ^^^ 0xFF).toNat + bitNat (s.cpu.flag .c) ↔ v.value.toNat + b ≤ s.cpu.a.toNat := by
    rw [toNat_complement]
    omega
  have hsigned : s.cpu.a.toInt + (v.value ^^^ 0xFF).toInt + bitNat (s.cpu.flag .c) = signed := by
    simp only [signed, toInt_complement]
    omega
  simp only [hdiff, hcarry, hsigned] at hadd
  exact ⟨_, exec_sbc o s, hadd⟩

/-! ## Bitwise logic -/

theorem exec_and (o : ReadOperand) (s : State) :
    exec (.and o) s = .next (finishOperand o (logicResult (s.cpu.a &&& (readOperand o s).value) s.cpu) s) := by
  simp only [exec, execAnd, readOperand_cpu, finishOperand]

theorem exec_ora (o : ReadOperand) (s : State) :
    exec (.ora o) s = .next (finishOperand o (logicResult (s.cpu.a ||| (readOperand o s).value) s.cpu) s) := by
  simp only [exec, execOra, readOperand_cpu, finishOperand]

theorem exec_eor (o : ReadOperand) (s : State) :
    exec (.eor o) s = .next (finishOperand o (logicResult (s.cpu.a ^^^ (readOperand o s).value) s.cpu) s) := by
  simp only [exec, execEor, readOperand_cpu, finishOperand]

/-- Settles O17: each ends as a load of its result into A does. -/
theorem logicInstructionsComplete : Obligations.LogicInstructionsComplete := by
  unfold Obligations.LogicInstructionsComplete
  intro o s v done
  exact ⟨⟨_, exec_and o s, finishOperand_setNZ o _ rfl rfl⟩, ⟨_, exec_ora o s, finishOperand_setNZ o _ rfl rfl⟩,
    ⟨_, exec_eor o s, finishOperand_setNZ o _ rfl rfl⟩⟩

theorem exec_bit (m : MemMode) (s : State) :
    exec (.bit m) s = .next (finishOperand (.mem m) (bitTest (readOperand (.mem m) s).value s.cpu) s) := by
  simp only [exec, execBit, readMem_cpu, finishOperand, readOperand]

/-- R236: BIT changes N, V and Z alone. -/
theorem bitTest_flag_other (m : Byte) (r : Cpu) {f : Flag} (hf : f ∉ [.n, .v, .z]) : (bitTest m r).flag f = r.flag f := by
  rw [bitTest_flag]
  cases f
  case n | v | z => simp at hf
  all_goals rfl

/-- Settles O18: the flags are those of `bitTest_flag`, and no register is written. -/
theorem bitCompletes : Obligations.BitCompletes := by
  unfold Obligations.BitCompletes
  intro m s v
  have hflag : ∀ f : Flag, f ≠ .u → (finishOperand (.mem m) (bitTest v.value s.cpu) s).cpu.flag f = (bitTest v.value s.cpu).flag f :=
    fun _ => finishOperand_flag (.mem m) _ s
  refine ⟨_, exec_bit m s, finishOperand_regsAre _ _ s, ?z, ?n, ?v, ?others, finishOperand_paced _ rfl, finishOperand_frame _ _ s⟩
  case z => exact (hflag _ (by decide)).trans (bitTest_flag _ _ _)
  case n => exact (hflag _ (by decide)).trans (bitTest_flag _ _ _)
  case v => exact (hflag _ (by decide)).trans (bitTest_flag _ _ _)
  case others => exact finishOperand_onlyFlags _ fun _ _ hf => bitTest_flag_other v.value s.cpu hf

/-! ## Read-modify-write -/

/-- R251: an operation sets N and Z from its result, and makes every other flag what `rest` says of it. -/
def RmwFlags (f : Byte → Cpu → RmwResult) (rest : Byte → Cpu → Flag → Bool) : Prop :=
  ∀ v r g, (f v r).cpu.flag g =
    if g = .z then decide ((f v r).value = 0) else if g = .n then (f v r).value.msb else rest v r g

/-- R247 to R250: a shift makes C the bit `out` of the byte, and keeps the flags other than N, Z and C. -/
def shiftRest (out : Byte → Bool) (v : Byte) (r : Cpu) (g : Flag) : Bool := if g = .c then out v else r.flag g

theorem rmwFlags_incByte : RmwFlags incByte (fun _ r g => r.flag g) := incByte_flag
theorem rmwFlags_decByte : RmwFlags decByte (fun _ r g => r.flag g) := decByte_flag
theorem rmwFlags_aslByte : RmwFlags aslByte (shiftRest (·.getLsbD 7)) := aslByte_flag
theorem rmwFlags_lsrByte : RmwFlags lsrByte (shiftRest (·.getLsbD 0)) := lsrByte_flag
theorem rmwFlags_rolByte : RmwFlags rolByte (shiftRest (·.getLsbD 7)) := rolByte_flag
theorem rmwFlags_rorByte : RmwFlags rorByte (shiftRest (·.getLsbD 0)) := rorByte_flag

/-- R251: the end of a read-modify-write of a memory operand: the location takes the result, and the flags are the operation's. -/
theorem modifyMem_complete (m : MemMode) {f : Byte → Cpu → RmwResult} {rest : Byte → Cpu → Flag → Bool} (hkeeps : RmwKeeps f)
    (hflags : RmwFlags f rest) {s : State} (hmem : MemoryOk s) :
    let old := readsAs s (effective m s).ea
    let t := complete (rmwCycles m) (modifyMem m f s)
    ModifiedTo m (f old s.cpu).value s t ∧ ∀ g, g ≠ .u → g ≠ .z → g ≠ .n → t.cpu.flag g = rest old s.cpu g := by
  intro old t
  obtain ⟨⟨hram, -⟩, ⟨⟨hprg, -⟩, -⟩, -⟩ := hmem
  obtain ⟨ha, hx, hy, hsp, hpc, htotal⟩ := hkeeps old s.cpu
  have ht : ∀ g, g ≠ .u → t.cpu.flag g = _ := fun g hg => by
    rw [complete_cpu_flag, if_neg hg, modifyMem_cpu, hflags]
  have hsame : SameOutsideCpu (busWrite (effective m s).ea (f old s.cpu).value (busRead (effective m s).ea s).2) t := by
    refine same_complete _ ?_
    rw [modifyMem_eq]
    exact sameOutsideCpu_setCpu _ _
  refine ⟨⟨⟨?_, ?_, ?_, ?_, ?_⟩, ⟨?_, ?_⟩, paced_complete _ ?_ ?_, byteStored_of _ _ hsame (.inr rfl) hram hprg⟩, fun g hu hz hn => ?_⟩
  · rw [complete_cpu_a, modifyMem_cpu, ha]
  · rw [complete_cpu_x, modifyMem_cpu, hx]
  · rw [complete_cpu_y, modifyMem_cpu, hy]
  · rw [complete_cpu_sp, modifyMem_cpu, hsp]
  · rw [complete_cpu_pc, modifyMem_cpu, hpc]
  · rw [ht _ (by decide)]; rfl
  · rw [ht _ (by decide)]; rfl
  · rw [modifyMem_cpu, htotal]
  · rw [modifyMem_eq]; simp
  · rw [ht g hu, if_neg hz, if_neg hn]

/-- A flag outside a list that holds N and Z is neither. -/
theorem ne_of_notMem_nz {g : Flag} {fs : List Flag} (hg : g ∉ .n :: .z :: fs) : g ≠ .z ∧ g ≠ .n ∧ g ∉ fs := by
  simp only [List.mem_cons, not_or] at hg
  obtain ⟨hn, hz, hfs⟩ := hg
  exact ⟨hz, hn, hfs⟩

/-- R241, R242: the end of INC or DEC. -/
theorem incDec_complete (m : MemMode) {f : Byte → Cpu → RmwResult} (hkeeps : RmwKeeps f) (hflags : RmwFlags f (fun _ r g => r.flag g))
    {s : State} (hmem : MemoryOk s) :
    let t := complete (rmwCycles m) (modifyMem m f s)
    ModifiedTo m (f (readsAs s (effective m s).ea) s.cpu).value s t ∧ OnlyFlags [.n, .z] s t := by
  obtain ⟨hmodified, hrest⟩ := modifyMem_complete m hkeeps hflags hmem
  refine ⟨hmodified, by simp, fun g hu hg => ?_⟩
  obtain ⟨hz, hn, -⟩ := ne_of_notMem_nz hg
  exact hrest g hu hz hn

/-- Settles O20: INC and DEC end as `incDec_complete` says. -/
theorem incDecComplete : Obligations.IncDecComplete := by
  unfold Obligations.IncDecComplete
  intro m s hmem old
  exact ⟨⟨_, rfl, incDec_complete m incByte_keeps rmwFlags_incByte hmem⟩, ⟨_, rfl, incDec_complete m decByte_keeps rmwFlags_decByte hmem⟩⟩

/-! ## Shifts -/

/-- R247 to R251: the end of a shift of a memory operand. -/
theorem memoryShift_complete (m : MemMode) {f : Byte → Cpu → RmwResult} {out : Byte → Bool} (hkeeps : RmwKeeps f)
    (hflags : RmwFlags f (shiftRest out)) {s : State} (hmem : MemoryOk s) {v : Byte}
    (hv : (f (readsAs s (effective m s).ea) s.cpu).value = v) :
    let t := complete (rmwCycles m) (modifyMem m f s)
    ModifiedTo m v s t ∧ t.cpu.flag .c = out (readsAs s (effective m s).ea) ∧ OnlyFlags [.n, .z, .c] s t := by
  obtain ⟨hmodified, hrest⟩ := modifyMem_complete m hkeeps hflags hmem
  refine ⟨hv ▸ hmodified, hrest .c (by decide) (by decide) (by decide), by simp, fun g hu hg => ?_⟩
  obtain ⟨hz, hn, hc⟩ := ne_of_notMem_nz hg
  exact (hrest g hu hz hn).trans (if_neg (by simpa using hc))

/-- Settles O23: the four shifts end as `memoryShift_complete` says. -/
theorem memoryShiftsComplete : Obligations.MemoryShiftsComplete := by
  unfold Obligations.MemoryShiftsComplete
  intro m s hmem old c done
  exact ⟨⟨_, rfl, memoryShift_complete m aslByte_keeps rmwFlags_aslByte hmem (aslByte_value _ _)⟩,
    ⟨_, rfl, memoryShift_complete m lsrByte_keeps rmwFlags_lsrByte hmem (lsrByte_value _ _)⟩,
    ⟨_, rfl, memoryShift_complete m rolByte_keeps rmwFlags_rolByte hmem (rolByte_value _ _)⟩,
    ⟨_, rfl, memoryShift_complete m rorByte_keeps rmwFlags_rorByte hmem (rorByte_value _ _)⟩⟩

/-- R143, R247 to R250: the end of a shift of the accumulator. -/
theorem accumulatorShift_complete {f : Byte → Cpu → RmwResult} {out : Byte → Bool} (hkeeps : RmwKeeps f)
    (hflags : RmwFlags f (shiftRest out)) {s : State} {v : Byte} (hv : (f s.cpu.a s.cpu).value = v) :
    let t := complete 2 (modifyAcc f s)
    ShiftedTo v s t ∧ t.cpu.flag .c = out s.cpu.a := by
  subst hv
  intro t
  obtain ⟨ha, hx, hy, hsp, hpc, htotal, hflag⟩ := modifyAcc_spec f hkeeps s
  have ht : ∀ g, g ≠ .u → t.cpu.flag g = _ := fun g hg => by
    rw [complete_cpu_flag, if_neg hg, hflag, hflags]
  refine ⟨⟨⟨ha, hx, hy, hsp, hpc⟩, ⟨ht .n (by decide), ht .z (by decide)⟩, ⟨by simp [t], fun g hu hg => ?_⟩, paced_complete 2 htotal rfl,
    nothingStored_of_same (same_complete 2 (sameOutsideCpu_setCpu _ s))⟩, ht .c (by decide)⟩
  obtain ⟨hz, hn, hc⟩ := ne_of_notMem_nz hg
  rw [ht g hu, if_neg hz, if_neg hn]
  exact if_neg (by simpa using hc)

/-- Settles O22: the four shifts end as `accumulatorShift_complete` says. -/
theorem accumulatorShiftsComplete : Obligations.AccumulatorShiftsComplete := by
  unfold Obligations.AccumulatorShiftsComplete
  intro s a c
  exact ⟨⟨_, rfl, accumulatorShift_complete aslByte_keeps rmwFlags_aslByte (aslByte_value _ _)⟩,
    ⟨_, rfl, accumulatorShift_complete lsrByte_keeps rmwFlags_lsrByte (lsrByte_value _ _)⟩,
    ⟨_, rfl, accumulatorShift_complete rolByte_keeps rmwFlags_rolByte (rolByte_value _ _)⟩,
    ⟨_, rfl, accumulatorShift_complete rorByte_keeps rmwFlags_rorByte (rorByte_value _ _)⟩⟩

end Sys2Proof.Machine
end

section
/-! PROOFS. The decimal flag: no arithmetic, compare or shift instruction depends on it (R38, R252). -/

namespace Sys2Proof.Machine

/-! ## Runs that differ in D -/

/-- The System with P.D set to `x`. -/
def withD (x : Bool) (s : State) : State := setCpu (s.cpu.setFlag .d x) s

/-- R35: D and another flag are set in either order. -/
theorem Cpu.setFlag_setFlag_d {g : Flag} (hg : g ≠ .d) (x y : Bool) (r : Cpu) :
    (r.setFlag .d x).setFlag g y = (r.setFlag g y).setFlag .d x := by
  have hp : Machine.setFlag g y (Machine.setFlag .d x r.p) = Machine.setFlag .d x (Machine.setFlag g y r.p) := by
    refine flag_ext _ _ fun k => ?_
    simp only [getFlag_setFlag]
    split_ifs with hkg hkd
    · exact absurd (hkg.symm.trans hkd) hg
    all_goals rfl
  exact congrArg (fun p => { r with p := p }) hp

/-- R401: the completion sets U and counts, neither by D. -/
theorem complete_withD (n : Nat) (x : Bool) (s : State) : complete n (withD x s) = withD x (complete n s) := by
  have hcpu := Cpu.setFlag_setFlag_d (g := .u) (by decide) x true s.cpu
  exact congrArg (fun r : Cpu => { s with
    cpu := { r with totalCycles := s.cpu.totalCycles + n, cyclesRemaining := remainingAfter s.config.tickModel n } }) hcpu

/-- R92: a read does the same whatever the CPU's registers are. -/
theorem busRead_setCpu (a : Word) (r : Cpu) (s : State) : busRead a (setCpu r s) = ((busRead a s).1, setCpu r (busRead a s).2) := by
  have k := busRead_cases a s
  generalize busRead a s = q at k
  cases k
  case ram h => exact (ReadCase.ram h).eq
  case ppu h h' => exact (ReadCase.ppu h h').eq
  case zero h h' h'' => exact (ReadCase.zero h h' h'').eq
  case status h => exact (ReadCase.status h).eq
  case pad1 h => exact (ReadCase.pad1 h).eq
  case pad2 h => exact (ReadCase.pad2 h).eq
  case cart h h' => exact (ReadCase.cart h h').eq
  case prgRam h k hk => exact (ReadCase.prgRam h k hk).eq

theorem busRead_withD (a : Word) (x : Bool) (s : State) : busRead a (withD x s) = ((busRead a s).1, withD x (busRead a s).2) := by
  unfold withD
  rw [busRead_setCpu, busRead_cpu]

theorem readsAs_withD (x : Bool) (s : State) (a : Word) : readsAs (withD x s) a = readsAs s a :=
  readsAs_congr (sameOutsideCpu_setCpu _ s) a

/-- R145 to R154: an effective address does not depend on D. -/
theorem effective_withD (m : MemMode) (x : Bool) (s : State) :
    effective m (withD x s) = { effective m s with state := withD x s } := by
  cases m
  case izx b | izy b =>
    simp only [effective, readWordZP_eq]
    rfl
  all_goals rfl

/-- R156: nor does an operand. -/
theorem readOperand_withD (o : ReadOperand) (x : Bool) (s : State) :
    readOperand o (withD x s) = { readOperand o s with state := withD x (readOperand o s).state } := by
  cases o
  case imm b => rfl
  case mem m =>
    simp only [readOperand, readMem, effective_withD, busRead_withD, effective_state]

/-! ## Operations that do not look at D -/

/-- A change of the CPU's registers that neither depends on D nor changes it. -/
def IgnoresD (f : Cpu → Cpu) : Prop := ∀ r x, f (r.setFlag .d x) = (f r).setFlag .d x

theorem setNZ_ignoresD (v : Byte) : IgnoresD (setNZ v) := fun r x => by
  unfold setNZ
  rw [Cpu.setFlag_setFlag_d (by decide), Cpu.setFlag_setFlag_d (by decide)]

theorem addWithCarry_ignoresD (m : Byte) : IgnoresD (addWithCarry m) := fun r x => by
  have hc : (r.setFlag .d x).flag .c = r.flag .c := Cpu.flag_setFlag .c .d x r
  have hcomm : ∀ (res : Byte) (c v : Bool), { ((r.setFlag .d x).setFlag .c c).setFlag .v v with a := res }
      = Cpu.setFlag .d x { (r.setFlag .c c).setFlag .v v with a := res } := by
    intro res c v
    rw [Cpu.setFlag_setFlag_d (by decide), Cpu.setFlag_setFlag_d (by decide)]
    rfl
  unfold addWithCarry
  rw [hc]
  exact (congrArg (setNZ _) (hcomm _ _ _)).trans (setNZ_ignoresD _ _ x)

theorem compare_ignoresD (reg m : Byte) : IgnoresD (compare reg m) := fun r x => by
  unfold compare
  rw [Cpu.setFlag_setFlag_d (by decide), Cpu.setFlag_setFlag_d (by decide), Cpu.setFlag_setFlag_d (by decide)]

/-- An operation of R251 that neither depends on D nor changes it. -/
def RmwIgnoresD (f : Byte → Cpu → RmwResult) : Prop :=
  ∀ v r x, f v (r.setFlag .d x) = { value := (f v r).value, cpu := (f v r).cpu.setFlag .d x }

theorem incByte_ignoresD : RmwIgnoresD incByte := fun _ r x => congrArg (RmwResult.mk _) (setNZ_ignoresD _ r x)

theorem decByte_ignoresD : RmwIgnoresD decByte := fun _ r x => congrArg (RmwResult.mk _) (setNZ_ignoresD _ r x)

/-- R247 to R250: C from the byte, then N and Z from the result. -/
theorem shiftFlags_ignoresD (c : Bool) (v : Byte) : IgnoresD (fun r => setNZ v (r.setFlag .c c)) := fun r x => by
  dsimp only
  rw [Cpu.setFlag_setFlag_d (by decide), setNZ_ignoresD]

theorem aslByte_ignoresD : RmwIgnoresD aslByte := fun _ r x => congrArg (RmwResult.mk _) (shiftFlags_ignoresD _ _ r x)

theorem lsrByte_ignoresD : RmwIgnoresD lsrByte := fun _ r x => congrArg (RmwResult.mk _) (shiftFlags_ignoresD _ _ r x)

theorem rolByte_ignoresD : RmwIgnoresD rolByte := fun v r x => by
  have hc : (r.setFlag .d x).flag .c = r.flag .c := Cpu.flag_setFlag .c .d x r
  unfold rolByte
  rw [hc]
  exact congrArg (RmwResult.mk _) (shiftFlags_ignoresD _ _ r x)

theorem rorByte_ignoresD : RmwIgnoresD rorByte := fun v r x => by
  have hc : (r.setFlag .d x).flag .c = r.flag .c := Cpu.flag_setFlag .c .d x r
  unfold rorByte
  rw [hc]
  exact congrArg (RmwResult.mk _) (shiftFlags_ignoresD _ _ r x)

/-! ## The instructions -/

/-- The end of an instruction that reads an operand and stores nothing. -/
theorem finishOperand_withD {f : Byte → Cpu → Cpu} (hf : ∀ v, IgnoresD (f v)) (o : ReadOperand) (x : Bool) (s : State) :
    finishOperand o (f (readOperand o (withD x s)).value (withD x s).cpu) (withD x s)
      = withD x (finishOperand o (f (readOperand o s).value s.cpu) s) := by
  have hcpu : f (readOperand o s).value (withD x s).cpu = (f (readOperand o s).value s.cpu).setFlag .d x := hf _ _ _
  unfold finishOperand
  rw [readOperand_withD, hcpu]
  exact complete_withD _ x (setCpu _ (readOperand o s).state)

/-- R251: a read-modify-write of memory. -/
theorem modifyMem_withD {f : Byte → Cpu → RmwResult} (hf : RmwIgnoresD f) (m : MemMode) (x : Bool) (s : State) :
    modifyMem m f (withD x s) = withD x (modifyMem m f s) := by
  have hop : ∀ v, f v (withD x s).cpu = { value := (f v s.cpu).value, cpu := (f v s.cpu).cpu.setFlag .d x } := fun v => hf v s.cpu x
  rw [modifyMem_eq, modifyMem_eq, effective_withD, readsAs_withD, hop, busRead_withD]
  unfold withD
  rw [busWrite_setCpu]
  rfl

theorem modifyOperand_withD {f : Byte → Cpu → RmwResult} (hf : RmwIgnoresD f) (o : ShiftOperand) (x : Bool) (s : State) :
    modifyOperand o f (withD x s) = withD x (modifyOperand o f s) := by
  cases o
  case acc =>
    have hop : f s.cpu.a (withD x s).cpu = _ := hf s.cpu.a s.cpu x
    have hacc : modifyAcc f (withD x s) = withD x (modifyAcc f s) :=
      congrArg (fun res : RmwResult => setCpu { res.cpu with a := res.value } s) hop
    show complete 2 (modifyAcc f (withD x s)) = withD x (complete 2 (modifyAcc f s))
    rw [hacc, complete_withD]
  case mem m =>
    show complete (rmwCycles m) (modifyMem m f (withD x s)) = withD x (complete (rmwCycles m) (modifyMem m f s))
    rw [modifyMem_withD hf, complete_withD]

/-- R38: an instruction commutes with a change of D. -/
def CommutesWithD (i : Instr) : Prop := ∀ x s t, exec i s = .next t → exec i (withD x s) = .next (withD x t)

theorem commutesWithD_of_exec {i : Instr} {f : State → State} (hexec : ∀ s, exec i s = .next (f s))
    (hf : ∀ x s, f (withD x s) = withD x (f s)) : CommutesWithD i := by
  intro x s t ht
  obtain rfl : f s = t := by simpa [hexec] using ht
  rw [hexec, hf]

/-- R156: of an instruction that reads an operand and sets the CPU's registers by an operation that ignores D. -/
theorem commutesWithD_of_operand {i : Instr} {o : ReadOperand} {f : Byte → Cpu → Cpu}
    (hexec : ∀ s, exec i s = .next (finishOperand o (f (readOperand o s).value s.cpu) s)) (hf : ∀ v, IgnoresD (f v)) :
    CommutesWithD i :=
  commutesWithD_of_exec hexec (finishOperand_withD hf o)

/-- R251: of a read-modify-write of memory by such an operation. -/
theorem commutesWithD_of_modifyMem {i : Instr} {m : MemMode} {f : Byte → Cpu → RmwResult}
    (hexec : ∀ s, exec i s = .next (complete (rmwCycles m) (modifyMem m f s))) (hf : RmwIgnoresD f) : CommutesWithD i :=
  commutesWithD_of_exec hexec fun x s => by rw [modifyMem_withD hf, complete_withD]

/-- R247 to R250: of a shift. -/
theorem commutesWithD_of_shift {i : Instr} {o : ShiftOperand} {f : Byte → Cpu → RmwResult}
    (hexec : ∀ s, exec i s = .next (modifyOperand o f s)) (hf : RmwIgnoresD f) : CommutesWithD i :=
  commutesWithD_of_exec hexec (modifyOperand_withD hf o)

/-- Settles O33: each instruction is an operation that ignores D, on an operand or a location that does not depend on D. -/
theorem decimalFlagNeverChangesAResult : Obligations.DecimalFlagNeverChangesAResult := by
  unfold Obligations.DecimalFlagNeverChangesAResult
  intro i s hi t ht
  have hcommutes : CommutesWithD i := by
    cases i
    case adc o => exact commutesWithD_of_operand (f := addWithCarry) (exec_adc o) addWithCarry_ignoresD
    case sbc o => exact commutesWithD_of_operand (f := fun v => addWithCarry (v ^^^ 0xFF)) (exec_sbc o) fun _ => addWithCarry_ignoresD _
    case cmp o => exact commutesWithD_of_operand (f := fun v r => compare r.a v r) (exec_cmp o) fun v r => compare_ignoresD r.a v r
    case cpx o => exact commutesWithD_of_operand (f := fun v r => compare r.x v r) (exec_cpx o) fun v r => compare_ignoresD r.x v r
    case cpy o => exact commutesWithD_of_operand (f := fun v r => compare r.y v r) (exec_cpy o) fun v r => compare_ignoresD r.y v r
    case inc m => exact commutesWithD_of_modifyMem (fun _ => rfl) incByte_ignoresD
    case dec m => exact commutesWithD_of_modifyMem (fun _ => rfl) decByte_ignoresD
    case asl o => exact commutesWithD_of_shift (fun _ => rfl) aslByte_ignoresD
    case lsr o => exact commutesWithD_of_shift (fun _ => rfl) lsrByte_ignoresD
    case rol o => exact commutesWithD_of_shift (fun _ => rfl) rolByte_ignoresD
    case ror o => exact commutesWithD_of_shift (fun _ => rfl) rorByte_ignoresD
    all_goals exact hi.elim
  exact ⟨hcommutes true s t ht, hcommutes false s t ht⟩

end Sys2Proof.Machine
end

section
/-! PROOFS. The families 42_control_flow.md and 60_exceptions.md: subroutines, BRK, RTI, interrupt entry and the poll (R281 to R284, R404
to R425). -/

namespace Sys2Proof.Machine

/-! ## Bytes pushed in a row -/

/-- R33: the RAM byte a stack address names. -/
theorem stackAddr_index (b : Byte) : (stackAddr b).toNat % 0x800 = 0x100 + b.toNat := by
  have hb := b.isLt
  rw [stackAddr_toNat, Nat.mod_eq_of_lt (by omega)]

theorem ram_read_stack (s : State) (b : Byte) : s.ram.read (0x100 + b.toNat) = readsAs s (stackAddr b) := by
  rw [readsAs_ram s (inRam_stackAddr b), stackAddr_index]

/-- R86: two bytes stored below SP in a row. -/
theorem ramStored_two {s t : State} {u v : Byte} (hwf : s.ram.wf)
    (ht : SameOutsideCpu
      { s with ram := (s.ram.write (0x100 + s.cpu.sp.toNat) u).write (0x100 + (s.cpu.sp - 1).toNat) v } t) :
    RamStored [(stackAddr s.cpu.sp, u), (stackAddr (s.cpu.sp - 1), v)] s t := by
  obtain ⟨hram, hrest⟩ := ht
  obtain ⟨h01, -, -⟩ := stackAddr_distinct s.cpu.sp
  refine ramStored_of _ ?_ hwf (by simp [inRam_stackAddr]) (by simpa using h01) ⟨rfl, hrest⟩
  simpa only [List.foldl_cons, List.foldl_nil, stackAddr_index] using hram

/-- R86: three. -/
theorem ramStored_three {s t : State} {u v w : Byte} (hwf : s.ram.wf)
    (ht : SameOutsideCpu
      { s with ram := ((s.ram.write (0x100 + s.cpu.sp.toNat) u).write (0x100 + (s.cpu.sp - 1).toNat) v).write
                  (0x100 + (s.cpu.sp - 1 - 1).toNat) w } t) :
    RamStored [(stackAddr s.cpu.sp, u), (stackAddr (s.cpu.sp - 1), v), (stackAddr (s.cpu.sp - 2), w)] s t := by
  obtain ⟨hram, hrest⟩ := ht
  obtain ⟨h01, h02, h12⟩ := stackAddr_distinct s.cpu.sp
  have hsp : s.cpu.sp - 2 = s.cpu.sp - 1 - 1 := by bv_omega
  rw [hsp]
  refine ramStored_of _ ?_ hwf (by simp [inRam_stackAddr]) (by simpa using ⟨⟨h01, h02⟩, h12⟩) ⟨rfl, hrest⟩
  simpa only [List.foldl_cons, List.foldl_nil, stackAddr_index] using hram

/-! ## Subroutines -/

/-- R281: JSR pushes the address before PC. -/
theorem exec_jsr (target : Word) (s : State) :
    exec (.jsr target) s =
      .next (complete 6 { s with
        ram := (s.ram.write (0x100 + s.cpu.sp.toNat) (hiByte (s.cpu.pc - 1))).write (0x100 + (s.cpu.sp - 1).toNat)
          (loByte (s.cpu.pc - 1))
        cpu := { s.cpu with sp := s.cpu.sp - 2, pc := target } }) := by
  have hpc : s.cpu.pc - 3 + 2 = s.cpu.pc - 1 := by bv_omega
  have hsp : s.cpu.sp - 1 - 1 = s.cpu.sp - 2 := by bv_omega
  simp only [exec, execJsr, push_eq, hpc, hsp]
  rfl

/-- Settles O26: `exec_jsr` gives the two bytes pushed and the registers. -/
theorem jsrCompletes : Obligations.JsrCompletes := by
  unfold Obligations.JsrCompletes
  intro target s hmem
  obtain ⟨⟨hwf, -⟩, -⟩ := hmem
  refine ⟨_, exec_jsr target s, ⟨rfl, rfl, rfl, rfl, rfl⟩, onlyFlags_complete 6 fun _ _ _ => rfl, paced_complete 6 rfl rfl,
    ramStored_two hwf (sameOutsideCpu_complete 6 _)⟩

/-- R282: RTS pulls two bytes and goes one further. -/
theorem exec_rts (s : State) :
    exec .rts s =
      .next (complete 6 (setCpu { s.cpu with
        sp := s.cpu.sp + 2
        pc := mkWord (readsAs s (stackAddr (s.cpu.sp + 2))) (readsAs s (stackAddr (s.cpu.sp + 1))) + 1 } s)) := by
  have hsp : s.cpu.sp + 1 + 1 = s.cpu.sp + 2 := by bv_omega
  simp only [exec, execRts, pull_eq, setSp_cpu_sp, setSp_ram, hsp, ram_read_stack]
  rfl

/-- Settles O27: `exec_rts` gives the registers, and nothing else changes. -/
theorem rtsCompletes : Obligations.RtsCompletes := by
  unfold Obligations.RtsCompletes
  intro s
  obtain ⟨hregs, hflags, hpaced, hsame⟩ := setCpu_complete (s := s) (u := s) (fs := []) (r := { s.cpu with
    sp := s.cpu.sp + 2
    pc := mkWord (readsAs s (stackAddr (s.cpu.sp + 2))) (readsAs s (stackAddr (s.cpu.sp + 1))) + 1 }) 6 (fun _ _ _ => rfl) rfl rfl
  exact ⟨_, exec_rts s, hregs, hflags, hpaced, nothingStored_of_same hsame⟩

/-! ## Interrupt entry -/

/-- R410: what an interrupt entered at `pc` leaves before its cycles are counted. -/
def enteredState (vector : Word) (pushB : Bool) (pc : Word) (s : State) : State :=
  { s with
    ram := ((s.ram.write (0x100 + s.cpu.sp.toNat) (hiByte pc)).write (0x100 + (s.cpu.sp - 1).toNat) (loByte pc)).write
      (0x100 + (s.cpu.sp - 1 - 1).toNat) (pushedStatus s.cpu.p pushB)
    cpu := { s.cpu with
      sp := s.cpu.sp - 3, p := setFlag .i true s.cpu.p, pc := mkWord (readsAs s (vector + 1)) (readsAs s vector) } }

/-- R410: taking an interrupt, at any PC. -/
theorem enterInterrupt_setPc {vector : Word} (hv : vector = 0xFFFA ∨ vector = 0xFFFC ∨ vector = 0xFFFE) (pushB : Bool) (n : Option Nat)
    (pc : Word) (s : State) :
    enterInterrupt vector pushB n (setPc pc s) = paceEntry n (enteredState vector pushB pc s) := by
  have hsp : s.cpu.sp - 1 - 1 - 1 = s.cpu.sp - 3 := by bv_omega
  have hreads : ∀ a, readsAs (setPc pc s) a = readsAs s a := readsAs_congr (sameOutsideCpu_setPc pc s)
  rw [enterInterrupt_eq _ _ _ _ hv]
  simp only [setPc_cpu_sp, setPc_ram, setPc_cpu_p, setPc_cpu_pc, hreads, hsp]
  rfl

/-- R410 to R412: a System that differs from the entered one in the counting of cycles and in U at most is an entered one. -/
theorem entered_of {vector : Word} {pushB : Bool} {pc : Word} {n : Nat} {s t : State} (hwf : s.ram.wf)
    (hsame : SameOutsideCpu (enteredState vector pushB pc s) t)
    (hregs : RegsAre t s.cpu.a s.cpu.x s.cpu.y (s.cpu.sp - 3) (mkWord (readsAs s (vector + 1)) (readsAs s vector)))
    (hflags : ∀ f, f ≠ .u → t.cpu.flag f = getFlag f (setFlag .i true s.cpu.p)) (htotal : t.cpu.totalCycles = s.cpu.totalCycles + n) :
    Entered vector (pushedStatus s.cpu.p pushB) pc n s t := by
  refine ⟨hregs, ?_, fun f hi hu => ?_, ramStored_three hwf hsame, htotal⟩
  · rw [hflags .i (by decide), getFlag_setFlag, if_pos rfl]
  · rw [hflags f hu, getFlag_setFlag, if_neg hi]
    rfl

/-- R408, R410: BRK pushes P with U and B set. -/
theorem pushedStatus_true (p : Byte) : pushedStatus p true = p ||| 0x30 := by
  refine flag_ext _ _ fun f => ?_
  rw [getFlag_pushedStatus]
  cases f <;> simp [getFlag, bitAt, flagIndex]

/-- R410: an interrupt pushes P with U set and B clear. -/
theorem pushedStatus_false (p : Byte) : pushedStatus p false = (p &&& ~~~0x30) ||| 0x20 := BitVec.or_zero

/-! ## BRK and RTI -/

/-- R283: BRK takes the interrupt at its own address plus two. -/
theorem exec_brk (s : State) :
    exec .brk s = .next (complete 7 (setBrkUnmasked (!s.cpu.flag .i) (enteredState 0xFFFE true (s.cpu.pc + 1) s))) := by
  have hpc : s.cpu.pc - 1 + 2 = s.cpu.pc + 1 := by bv_omega
  simp only [exec, execBrk, hpc]
  rw [enterInterrupt_setPc (.inr (.inr rfl))]
  rfl

/-- Assumption 28: an operation of R251 leaves the model's own field alone. -/
def RmwKeepsBrk (f : Byte → Cpu → RmwResult) : Prop := ∀ v r, (f v r).cpu.brkUnmasked = r.brkUnmasked

theorem modifyMem_brkUnmasked {f : Byte → Cpu → RmwResult} (hf : RmwKeepsBrk f) (m : MemMode) (s : State) :
    (modifyMem m f s).cpu.brkUnmasked = s.cpu.brkUnmasked := by
  rw [modifyMem_cpu, hf]

theorem modifyOperand_brkUnmasked {f : Byte → Cpu → RmwResult} (hf : RmwKeepsBrk f) (o : ShiftOperand) (s : State) :
    (modifyOperand o f s).cpu.brkUnmasked = s.cpu.brkUnmasked := by
  cases o
  case acc => exact hf _ _
  case mem m => exact modifyMem_brkUnmasked hf m s

theorem branch_brkUnmasked (c : Bool) (off : Byte) (s : State) : (branch c off s).cpu.brkUnmasked = s.cpu.brkUnmasked := by
  cases c <;> rfl

/-- Assumption 28: no instruction but BRK writes `brkUnmasked`. -/
theorem exec_brkUnmasked {i : Instr} (hi : i ≠ .brk) (s : State) :
    ∃ t, exec i s = .next t ∧ t.cpu.brkUnmasked = s.cpu.brkUnmasked := by
  cases i
  case brk => exact absurd rfl hi
  case lda o => exact ⟨_, exec_lda o s, rfl⟩
  case ldx o => exact ⟨_, exec_ldx o s, rfl⟩
  case ldy o => exact ⟨_, exec_ldy o s, rfl⟩
  case adc o => exact ⟨_, exec_adc o s, rfl⟩
  case sbc o => exact ⟨_, exec_sbc o s, rfl⟩
  case and o => exact ⟨_, exec_and o s, rfl⟩
  case ora o => exact ⟨_, exec_ora o s, rfl⟩
  case eor o => exact ⟨_, exec_eor o s, rfl⟩
  case cmp o => exact ⟨_, exec_cmp o s, rfl⟩
  case cpx o => exact ⟨_, exec_cpx o s, rfl⟩
  case cpy o => exact ⟨_, exec_cpy o s, rfl⟩
  case bit m => exact ⟨_, exec_bit m s, rfl⟩
  case sta m | stx m | sty m =>
    refine ⟨_, rfl, ?_⟩
    rw [complete_cpu_brkUnmasked, store_cpu]
  case inc m | dec m => exact ⟨_, rfl, modifyMem_brkUnmasked (fun _ _ => rfl) m s⟩
  case asl o | lsr o | rol o | ror o => exact ⟨_, rfl, modifyOperand_brkUnmasked (fun _ _ => rfl) o s⟩
  case bcc off | bcs off | beq off | bmi off | bne off | bpl off | bvc off | bvs off => exact ⟨_, rfl, branch_brkUnmasked _ off s⟩
  case pha | php =>
    refine ⟨_, rfl, ?_⟩
    rw [complete_cpu_brkUnmasked, push_eq]
  case pla | plp =>
    refine ⟨_, rfl, ?_⟩
    rw [complete_cpu_brkUnmasked, pull_eq]
    rfl
  case jmp o =>
    cases o
    case abs w => exact ⟨_, rfl, rfl⟩
    case ind w =>
      refine ⟨_, rfl, ?_⟩
      rw [complete_cpu_brkUnmasked, setPc_cpu_brkUnmasked, readWordJmpInd_cpu]
  case jsr w => exact ⟨_, exec_jsr w s, rfl⟩
  case rts => exact ⟨_, exec_rts s, rfl⟩
  case rti =>
    refine ⟨_, rfl, ?_⟩
    rw [complete_cpu_brkUnmasked, returnFromInterrupt_eq]
  all_goals exact ⟨_, rfl, rfl⟩

/-- Settles O28: BRK ends as `exec_brk` says, and `exec_brkUnmasked` speaks of the others. -/
theorem brkTakesTheSoftwareInterrupt : Obligations.BrkTakesTheSoftwareInterrupt := by
  unfold Obligations.BrkTakesTheSoftwareInterrupt
  intro s
  refine ⟨fun hmem => ⟨_, exec_brk s, ?entered, by simp, paced_complete 7 rfl rfl, rfl⟩, fun i t hi ht => ?others⟩
  case entered =>
    obtain ⟨⟨hwf, -⟩, -⟩ := hmem
    rw [← pushedStatus_true]
    refine entered_of hwf (same_complete 7 (sameOutsideCpu_setBrkUnmasked _ _)) ⟨rfl, rfl, rfl, rfl, rfl⟩ (fun f hu => ?_) rfl
    rw [complete_cpu_flag, if_neg hu]
    rfl
  case others =>
    obtain ⟨u, hu, hbrk⟩ := exec_brkUnmasked hi s
    obtain rfl : u = t := by simpa [hu] using ht
    exact hbrk

/-- R284: RTI pulls the status byte and PC. -/
theorem exec_rti (s : State) :
    exec .rti s =
      .next (complete 6 (setCpu { s.cpu with
        sp := s.cpu.sp + 3
        p := pulledStatus (readsAs s (stackAddr (s.cpu.sp + 1)))
        pc := mkWord (readsAs s (stackAddr (s.cpu.sp + 3))) (readsAs s (stackAddr (s.cpu.sp + 2))) } s)) := by
  have h2 : s.cpu.sp + 1 + 1 = s.cpu.sp + 2 := by bv_omega
  have h3 : s.cpu.sp + 2 + 1 = s.cpu.sp + 3 := by bv_omega
  simp only [exec, execRti, returnFromInterrupt_eq, h2, h3, ram_read_stack]
  rfl

/-- Settles O29: `exec_rti` gives the registers, and the completion's U is set already. -/
theorem rtiCompletes : Obligations.RtiCompletes := by
  unfold Obligations.RtiCompletes
  intro s
  exact ⟨_, exec_rti s, ⟨rfl, rfl, rfl, rfl, rfl⟩, setFlag_u_pulledStatus _, paced_complete 6 rfl rfl,
    nothingStored_of_same (same_complete 6 (sameOutsideCpu_setCpu _ s))⟩

/-- R36, R37: a status byte with U = 1 and B = 0 comes back from the copy BRK pushes. -/
theorem pulledStatus_pushed {s : State} (h : StatusOk s) : pulledStatus (s.cpu.p ||| 0x30) = s.cpu.p := by
  obtain ⟨hu, hb⟩ := h
  rw [← pushedStatus_true]
  refine flag_ext _ _ fun f => ?_
  rw [getFlag_pulledStatus, getFlag_pushedStatus]
  split_ifs with hfu hfb
  · rw [hfu]; exact hu.symm
  · rw [hfb]; exact hb.symm
  · rfl

/-- R401: with U = 1 already, an instruction that writes no flag leaves P as it was. -/
theorem p_eq_of_onlyFlags {s t : State} (h : OnlyFlags [] s t) (hu : s.cpu.flag .u = true) : t.cpu.p = s.cpu.p := by
  obtain ⟨htu, hflags⟩ := h
  refine flag_ext _ _ fun f => ?_
  by_cases hf : f = .u
  · rw [hf]; exact htu.trans hu.symm
  · exact hflags f hf (by simp)

/-- Settles O30: what BRK and JSR push is what RTI and RTS pull, since SP comes back to where it was. -/
theorem returnsUndoTheirEntries : Obligations.ReturnsUndoTheirEntries := by
  unfold Obligations.ReturnsUndoTheirEntries
  intro s hmem hstatus
  have h31 : s.cpu.sp - 3 + 1 = s.cpu.sp - 2 := by bv_omega
  have h32 : s.cpu.sp - 3 + 2 = s.cpu.sp - 1 := by bv_omega
  have h21 : s.cpu.sp - 2 + 1 = s.cpu.sp - 1 := by bv_omega
  refine ⟨?brk, fun target => ?jsr⟩
  case brk =>
    obtain ⟨t, hbrk, ⟨⟨ha, hx, hy, hsp, -⟩, -, -, ⟨hstored, -⟩, -⟩, -⟩ := (brkTakesTheSoftwareInterrupt s).1 hmem
    obtain ⟨u, hrti, ⟨ha', hx', hy', hsp', hpc'⟩, hp', -⟩ := rtiCompletes (setPc (t.cpu.pc + 1) t)
    have hreads : ∀ a, readsAs (setPc (t.cpu.pc + 1) t) a = readsAs t a := readsAs_congr (sameOutsideCpu_setPc _ t)
    have hhi : readsAs t (stackAddr s.cpu.sp) = hiByte (s.cpu.pc + 1) := hstored (_, _) (.head _)
    have hlo : readsAs t (stackAddr (s.cpu.sp - 1)) = loByte (s.cpu.pc + 1) := hstored (_, _) (.tail _ (.head _))
    have hpushed : readsAs t (stackAddr (s.cpu.sp - 2)) = s.cpu.p ||| 0x30 := hstored (_, _) (.tail _ (.tail _ (.head _)))
    rw [setPc_cpu_sp, hsp] at hsp' hpc' hp'
    rw [hreads, hreads, h32, BitVec.sub_add_cancel, hhi, hlo, mkWord_bytes] at hpc'
    rw [hreads, h31, hpushed] at hp'
    rw [BitVec.sub_add_cancel] at hsp'
    exact ⟨t, u, hbrk, hrti, ⟨ha'.trans ha, hx'.trans hx, hy'.trans hy, hsp', hpc'⟩, hp'.trans (pulledStatus_pushed hstatus)⟩
  case jsr =>
    obtain ⟨t, hjsr, ⟨ha, hx, hy, hsp, -⟩, hflags, -, hstored, -⟩ := jsrCompletes target s hmem
    obtain ⟨u, hrts, ⟨ha', hx', hy', hsp', hpc'⟩, hflags', -⟩ := rtsCompletes (setPc (t.cpu.pc + 1) t)
    have hreads : ∀ a, readsAs (setPc (t.cpu.pc + 1) t) a = readsAs t a := readsAs_congr (sameOutsideCpu_setPc _ t)
    have hhi : readsAs t (stackAddr s.cpu.sp) = hiByte (s.cpu.pc - 1) := hstored (_, _) (.head _)
    have hlo : readsAs t (stackAddr (s.cpu.sp - 1)) = loByte (s.cpu.pc - 1) := hstored (_, _) (.tail _ (.head _))
    rw [setPc_cpu_sp, hsp] at hsp' hpc'
    rw [hreads, hreads, h21, BitVec.sub_add_cancel, hhi, hlo, mkWord_bytes, BitVec.sub_add_cancel] at hpc'
    rw [BitVec.sub_add_cancel] at hsp'
    have hp : t.cpu.p = s.cpu.p := p_eq_of_onlyFlags hflags hstatus.1
    have hp' : u.cpu.p = t.cpu.p := p_eq_of_onlyFlags hflags' hflags.1
    exact ⟨t, u, hjsr, hrts, ⟨ha'.trans ha, hx'.trans hx, hy'.trans hy, hsp', hpc'⟩, hp'.trans hp⟩

end Sys2Proof.Machine
end

section
/-! PROOFS. The family 60_exceptions.md: interrupt entry and the poll (R404 to R425). -/

namespace Sys2Proof.Machine

/-! ## Entry -/

/-- R96: a read of the mapper's ROM space. -/
theorem readsAs_mapper {a : Word} (s : State) (h : 0x8000 ≤ a.toNat) : readsAs s a = cartRead s.cart a := by
  unfold readsAs
  rw [(ReadCase.cart (by omega) fun h' => Nat.not_lt.mpr h h'.2).eq]

/-- R96: reads there depend on the cartridge alone. -/
theorem readsAs_of_cart_eq {a : Word} {s t : State} (h : t.cart = s.cart) (ha : 0x8000 ≤ a.toNat) : readsAs t a = readsAs s a := by
  rw [readsAs_mapper t ha, readsAs_mapper s ha, h]

/-- R410, R411: an interrupt entered in `n` cycles. -/
theorem entered_enterInterrupt {vector : Word} (hv : vector = 0xFFFA ∨ vector = 0xFFFC ∨ vector = 0xFFFE) (n : Nat) {s : State}
    (hwf : s.ram.wf) :
    let t := enterInterrupt vector false (some n) s
    Entered vector ((s.cpu.p &&& ~~~0x30) ||| 0x20) s.cpu.pc n s t ∧ t.cpu.cyclesRemaining = n ∧ t.cpu.flag .u = s.cpu.flag .u
      ∧ t.cpu.brkUnmasked = false := by
  have heq : enterInterrupt vector false (some n) s = paceEntry (some n) (enteredState vector false s.cpu.pc s) :=
    enterInterrupt_setPc hv false (some n) s.cpu.pc s
  simp only [heq, ← pushedStatus_false]
  refine ⟨entered_of hwf ?_ ⟨rfl, rfl, rfl, rfl, rfl⟩ (fun _ _ => rfl) rfl, rfl, ?_, rfl⟩
  · exact ⟨rfl, rfl, rfl, rfl, rfl, rfl, rfl, rfl, rfl, rfl, rfl⟩
  · exact (getFlag_setFlag .u .i true s.cpu.p).trans (if_neg (by decide))

/-- Settles O34: `nmi()` enters without looking at I. -/
theorem nmiEntersWhateverTheMask : Obligations.NmiEntersWhateverTheMask := by
  unfold Obligations.NmiEntersWhateverTheMask
  intro s hmem
  obtain ⟨⟨hwf, -⟩, -⟩ := hmem
  exact entered_enterInterrupt (.inl rfl) 8 hwf

/-- Settles O35: `irq()` enters exactly while the IRQ is not masked. -/
theorem irqEntersOnlyUnmasked : Obligations.IrqEntersOnlyUnmasked := by
  unfold Obligations.IrqEntersOnlyUnmasked
  intro s hmem afterBrk
  obtain ⟨⟨hwf, -⟩, -⟩ := hmem
  refine ⟨fun hopen => ?entered, fun hi hbrk => irq_masked ⟨hi, hbrk⟩⟩
  have hunmasked : ¬ IrqMasked s := by
    rintro ⟨hi, hbrk⟩
    rcases hopen with hopen | hopen
    · exact absurd (hi.symm.trans hopen) (by decide)
    · exact hbrk hopen
  rw [irq_unmasked hunmasked]
  exact entered_enterInterrupt (.inr (.inr rfl)) 7 hwf

/-! ## The poll -/

/-- R410, R411: what an entry in `n` cycles leaves in the CPU, and that it keeps the devices. -/
theorem enterInterrupt_outside {vector : Word} (hv : vector = 0xFFFA ∨ vector = 0xFFFC ∨ vector = 0xFFFE) (n : Nat) (s : State) :
    let t := enterInterrupt vector false (some n) s
    t.cpu.pc = mkWord (readsAs s (vector + 1)) (readsAs s vector) ∧ t.cpu.p = setFlag .i true s.cpu.p ∧ t.cpu.cyclesRemaining = n
      ∧ t.ppu = s.ppu ∧ t.apu = s.apu ∧ t.cart = s.cart := by
  simp only [enterInterrupt_eq _ _ _ _ hv]
  exact ⟨rfl, rfl, rfl, rfl, rfl, rfl⟩

/-- R404: what a boundary is. -/
theorem atBoundary_iff (s : State) :
    atBoundary s = true ↔ s.cpu.cyclesRemaining = 0 ∧ s.dma.transferring = false ∧ s.dmcStall = 0 := by
  simp [atBoundary, and_assoc]

/-- Settles O36: off a boundary the poll is the identity; at one, a pending NMI is entered with its flag cleared before. -/
theorem pollTakesNmiFirstAndOnlyAtABoundary : Obligations.PollTakesNmiFirstAndOnlyAtABoundary := by
  unfold Obligations.PollTakesNmiFirstAndOnlyAtABoundary
  intro s
  refine ⟨fun hbusy => ?busy, fun hcycles hdma hstall hnmi => ?nmi⟩
  case busy =>
    refine if_neg fun hb => ?_
    obtain ⟨hcycles, hdma, hstall⟩ := (atBoundary_iff s).1 hb
    rcases hbusy with h | h | h
    · omega
    · exact absurd (hdma.symm.trans h) (by decide)
    · omega
  case nmi =>
    have hpoll : interruptPoll s = nmi { s with ppu := { s.ppu with nmiPending := false } } := by
      unfold interruptPoll
      rw [if_pos ((atBoundary_iff s).2 ⟨hcycles, hdma, hstall⟩), if_pos hnmi]
    rw [hpoll]
    obtain ⟨hpc, -, hleft, hppu, hapu, hcart⟩ :=
      enterInterrupt_outside (.inl rfl) 8 { s with ppu := { s.ppu with nmiPending := false } }
    refine ⟨hpc.trans (congrArg₂ mkWord ?_ ?_), hleft, hppu, hapu, hcart⟩
    · exact readsAs_of_cart_eq rfl (by decide)
    · exact readsAs_of_cart_eq rfl (by decide)

/-- The System with the mapper's pending bit set to `x`. -/
def withMapperIrq (x : Bool) (s : State) : State :=
  { s with cart := { s.cart with mapper := { s.cart.mapper with irqPending := x } } }

/-- R424, R425: the IRQ line, and what reading it leaves of the mapper's bit. -/
theorem irqLine_eq (s : State) :
    ∃ x, irqLine s = (s.apu.frame.irq || s.apu.dmc.irq || s.cart.mapper.irqPending, withMapperIrq x s)
      ∧ (s.config.mapperIrqRetention = .hold → x = s.cart.mapper.irqPending)
      ∧ (s.config.mapperIrqRetention = .drain → s.apu.frame.irq = false → s.apu.dmc.irq = false → x = false) := by
  unfold irqLine
  split_ifs with hshort
  · have hapu : apuIrq s = true := (Bool.and_eq_true _ _ ▸ hshort).1
    refine ⟨s.cart.mapper.irqPending, ?_, fun _ => rfl, fun _ hframe hdmc => ?_⟩
    · rw [show (s.apu.frame.irq || s.apu.dmc.irq) = true from hapu, Bool.true_or]
      rfl
    · simp [apuIrq, hframe, hdmc] at hapu
  · cases hret : s.config.mapperIrqRetention
    case drain => exact ⟨false, by simp only [mapperIrq, hret, apuIrq, withMapperIrq], nofun, fun _ _ _ => rfl⟩
    case hold => exact ⟨s.cart.mapper.irqPending, by simp only [mapperIrq, hret, apuIrq]; rfl, fun _ => rfl, nofun⟩

/-- R406: the poll at a boundary with no NMI pending. -/
theorem interruptPoll_irq {s : State} (hb : atBoundary s = true) (hnmi : s.ppu.nmiPending = false) :
    interruptPoll s = if (irqLine s).1 then irq (irqLine s).2 else (irqLine s).2 := by
  unfold interruptPoll
  rw [if_pos hb, hnmi]
  rfl

/-- Settles O37: by the line and the mask; reading the line leaves the mapper's bit as `irqLine_eq` says. -/
theorem pollTakesAnUnmaskedIrq : Obligations.PollTakesAnUnmaskedIrq := by
  unfold Obligations.PollTakesAnUnmaskedIrq
  intro s hcycles hdma hstall hnmi t line
  obtain ⟨x, hline, hhold, hdrain⟩ := irqLine_eq s
  have hpoll : t = if line then irq (withMapperIrq x s) else withMapperIrq x s := by
    have h := interruptPoll_irq ((atBoundary_iff s).2 ⟨hcycles, hdma, hstall⟩) hnmi
    rwa [hline] at h
  have hcart : ∀ u : State, u.cart = (withMapperIrq x s).cart →
      (s.config.mapperIrqRetention = .hold → u.cart = s.cart)
        ∧ (s.config.mapperIrqRetention = .drain → s.apu.frame.irq = false → s.apu.dmc.irq = false →
            u.cart = { s.cart with mapper := { s.cart.mapper with irqPending := false } }) := by
    intro u hu
    refine ⟨fun h => ?_, fun h hframe hdmc => ?_⟩
    · rw [hu, hhold h]; rfl
    · rw [hu, hdrain h hframe hdmc]; rfl
  by_cases htaken : line = true ∧ ¬ IrqMasked s
  · obtain ⟨hl, hm⟩ := htaken
    have ht : t = enterInterrupt 0xFFFE false (some 7) (withMapperIrq x s) := by
      rw [hpoll, if_pos hl]
      exact irq_unmasked hm
    obtain ⟨hpc, hp, hleft, hppu, hapu, hc⟩ := enterInterrupt_outside (.inr (.inr rfl)) 7 (withMapperIrq x s)
    rw [← ht] at hpc hp hleft hppu hapu hc
    refine ⟨fun _ _ => ⟨hpc.trans (congrArg₂ mkWord ?_ ?_), ?_, hleft⟩, fun h => absurd h ?_, hapu, hppu, hcart t hc⟩
    · exact readsAs_of_cart_eq hc.symm (by decide)
    · exact readsAs_of_cart_eq hc.symm (by decide)
    · rw [Cpu.flag_eq, hp, getFlag_setFlag, if_pos rfl]
    · simp [hl, hm]
  · have ht : t = withMapperIrq x s := by
      rw [hpoll]
      split_ifs with hl
      · exact irq_masked (s := withMapperIrq x s) (by_contra fun hm => htaken ⟨hl, hm⟩)
      · rfl
    rw [ht]
    exact ⟨fun hl hm => absurd ⟨hl, hm⟩ htaken, fun _ => ⟨rfl, rfl⟩, rfl, rfl, hcart _ rfl⟩

end Sys2Proof.Machine
end

section
/-! PROOFS. The family 60_exceptions.md, section 8: the master cycle, the CPU slot, fetch and `clock()` (R141, R400, R401, R430, R431). -/

namespace Sys2Proof.Machine

/-! ## The master cycle -/

/-- R430: the PPU dot moves the PPU and the mapper's registers alone. -/
theorem dotPhase_frame (s : State) : ∃ p m, dotPhase s = { s with ppu := p, cart := { s.cart with mapper := m } } := by
  unfold dotPhase
  dsimp only
  split_ifs
  · exact ⟨_, scanlineTickRegs s.cart.variant s.cart.mapper, rfl⟩
  · exact ⟨_, s.cart.mapper, rfl⟩

/-- R430: a master cycle without a CPU slot. -/
theorem step_offSlot {s : State} (hrom : s.romLoaded = true) (hphase : s.masterCount % 3 ≠ 0) :
    step s = .next (endTick (dotPhase s)) := by
  obtain ⟨p, m, hdot⟩ := dotPhase_frame s
  unfold step tick
  rw [if_pos hrom, hdot]
  exact congrArg (mapNext endTick) (if_neg hphase)

/-- R430, R431: a master cycle with one. -/
theorem step_onSlot {s : State} (hrom : s.romLoaded = true) (hphase : s.masterCount % 3 = 0) :
    step s = mapNext endTick (mapNext endSlot (slotWork (dotPhase s))) := by
  obtain ⟨p, m, hdot⟩ := dotPhase_frame s
  unfold step tick
  rw [if_pos hrom, hdot]
  exact congrArg (mapNext endTick) (if_pos hphase)

/-- Settles O39: `step_next` gives the next state, `step_counts` what it counts. -/
theorem everyLoadedStepAnswers : Obligations.EveryLoadedStepAnswers := by
  unfold Obligations.EveryLoadedStepAnswers
  intro s
  refine ⟨fun hrom => ?loaded, fun hrom => by rw [step, hrom]; rfl⟩
  obtain ⟨t, ht⟩ := step_next hrom
  obtain ⟨hmaster, -, hloaded, -⟩ := step_counts ht
  exact ⟨t, ht, hmaster, hloaded.trans hrom⟩

/-- Settles O40: off the slot a step is the dot and the count; on it, `step_counts` counts the slot. -/
theorem cpuHasEveryThirdMasterCycle : Obligations.CpuHasEveryThirdMasterCycle := by
  unfold Obligations.CpuHasEveryThirdMasterCycle
  intro s hrom
  refine ⟨fun hphase => ?off, fun hphase => ?on⟩
  case off =>
    obtain ⟨p, m, hdot⟩ := dotPhase_frame s
    exact ⟨p, m, by rw [step_offSlot hrom hphase, hdot]; rfl⟩
  case on =>
    obtain ⟨t, ht⟩ := step_next hrom
    obtain ⟨-, hslots, -⟩ := step_counts ht
    exact ⟨t, ht, by rw [hslots, if_pos hphase]⟩

/-! ## Fetch -/

/-- R140: an operand byte the opcode's length does not take may be any. -/
theorem decodeByte_unused (op b1 b2 : Byte) :
    decodeByte op (if 2 ≤ opcodeLength op then b1 else 0) (if 3 ≤ opcodeLength op then b2 else 0) = decodeByte op b1 b2 := by
  have hlen : opcodeLength op = 1 ∨ opcodeLength op = 2 ∨ opcodeLength op = 3 :=
    decodeByte_length op b1 b2 ▸ (decodeByte op b1 b2).length_cases
  have hback := decodeOfEncodeIsTheInstruction _ [0, 0] (decodeByte_wf op b1 b2)
  rw [encode_decodeByte, decodeByte_length] at hback
  rcases hlen with hlen | hlen | hlen
  all_goals
    rw [hlen] at hback ⊢
    rw [List.take_succ_cons, List.cons_append, decode_cons (by simp [hlen])] at hback
    exact (Decoded.instr.inj hback).1

theorem opcodeLength_cases (op : Byte) : opcodeLength op = 1 ∨ opcodeLength op = 2 ∨ opcodeLength op = 3 :=
  (decodeByte op 0 0).length_cases

/-- R141: a byte fetched where reading has no side effect. -/
theorem fetchByte_quiet {s : State} (hq : ¬ ReadHasSideEffect s.cpu.pc) :
    fetchByte s = (readsAs s s.cpu.pc, setPc (s.cpu.pc + 1) s) := by
  have hstate : (busRead s.cpu.pc s).2 = s := busRead_quiet _ _ hq
  exact Prod.ext rfl (congrArg (fun u : State => setPc (u.cpu.pc + 1) u) hstate)

theorem fetchByteIf_quiet {b : Bool} {pc : Word} (s : State) (hq : b = true → ¬ ReadHasSideEffect pc) :
    fetchByteIf b (setPc pc s) = (if b then readsAs s pc else 0, setPc (if b then pc + 1 else pc) s) := by
  cases b
  · rfl
  · refine (fetchByte_quiet (hq rfl)).trans ?_
    rw [readsAs_congr (sameOutsideCpu_setPc pc s)]
    rfl

/-- R141: an instruction fetched where reading has no side effect. -/
theorem fetch_quiet {s : State}
    (hq : ∀ k, k < opcodeLength (readsAs s s.cpu.pc) → ¬ ReadHasSideEffect (s.cpu.pc + BitVec.ofNat 16 k)) :
    fetch s =
      (decodeByte (readsAs s s.cpu.pc) (readsAs s (s.cpu.pc + 1)) (readsAs s (s.cpu.pc + 2)),
        setPc (s.cpu.pc + BitVec.ofNat 16 (opcodeLength (readsAs s s.cpu.pc))) s) := by
  have hpc2 : s.cpu.pc + 1#16 + 1#16 = s.cpu.pc + 2#16 := by bv_omega
  have hpc3 : s.cpu.pc + 2#16 + 1#16 = s.cpu.pc + 3#16 := by bv_omega
  have hpos : 0 < opcodeLength (readsAs s s.cpu.pc) := by rcases opcodeLength_cases (readsAs s s.cpu.pc) with h | h | h <;> omega
  have hop : fetchByte s = (readsAs s s.cpu.pc, setPc (s.cpu.pc + 1) s) := fetchByte_quiet (by simpa using hq 0 hpos)
  rw [← decodeByte_unused (readsAs s s.cpu.pc)]
  unfold fetch
  simp only [hop]
  rw [fetchByteIf_quiet (b := decide (2 ≤ opcodeLength (readsAs s s.cpu.pc))) (pc := s.cpu.pc + 1) s fun h => hq 1 (of_decide_eq_true h)]
  rcases opcodeLength_cases (readsAs s s.cpu.pc) with hlen | hlen | hlen
  case inl => simp [hlen, fetchByteIf]
  case inr.inl => simp [hlen, fetchByteIf, hpc2]
  case inr.inr =>
    rw [fetchByteIf_quiet s fun _ => ?_]
    · simp [hlen, hpc2, hpc3]
    · simpa [hlen, hpc2] using hq 2 (by omega)

/-- R431: at a boundary the slot is the CPU's, and it fetches. -/
theorem slotWork_fetch {s : State} (hcycles : s.cpu.cyclesRemaining = 0) (hdma : s.dma.transferring = false) (hstall : s.dmcStall = 0) :
    slotWork s = exec (fetch (beginInstruction s)).1 (fetch (beginInstruction s)).2 := by
  simp [slotWork, clock, hcycles, hdma, hstall]

/-- Settles O38: the slot fetches; the fetch is `fetch_quiet`'s, whose instruction is the decoder's. -/
theorem stepRunsTheDecodedInstruction : Obligations.StepRunsTheDecodedInstruction := by
  unfold Obligations.StepRunsTheDecodedInstruction
  intro s hrom hphase hcycles hdma hstall d after
  have hfetch : step s = after (exec (fetch (beginInstruction d)).1 (fetch (beginInstruction d)).2) := by
    obtain ⟨p, m, hdot⟩ := dotPhase_frame s
    have hwork := slotWork_fetch (s := d) (by rw [dotPhase_cpu]; exact hcycles) (by simp only [d, hdot]; exact hdma)
      (by simp only [d, hdot]; exact hstall)
    rw [step_onSlot hrom hphase, hwork]
  refine ⟨hfetch, fun i rest hquiet hdecode => ?_⟩
  have hpc : (beginInstruction d).cpu.pc = s.cpu.pc := by rw [beginInstruction_cpu_pc, dotPhase_cpu]
  have hreads : ∀ a, readsAs (beginInstruction d) a = readsAs d a := readsAs_congr (sameOutsideCpu_beginInstruction d)
  have hlen : opcodeLength (readsAs d s.cpu.pc) ≤ 3 := by
    rcases opcodeLength_cases (readsAs d s.cpu.pc) with h | h | h <;> omega
  rw [decode_cons hlen] at hdecode
  have hi : decodeByte (readsAs d s.cpu.pc) (readsAs d (s.cpu.pc + 1)) (readsAs d (s.cpu.pc + 2)) = i :=
    (Decoded.instr.inj hdecode).1
  have hilen : i.length = opcodeLength (readsAs d s.cpu.pc) := hi ▸ decodeByte_length _ _ _
  have hstate : setPc (s.cpu.pc + BitVec.ofNat 16 i.length) (beginInstruction d) =
      { d with cpu := { s.cpu with
        pc := s.cpu.pc + BitVec.ofNat 16 i.length, p := setFlag .u true s.cpu.p, brkUnmasked := false } } := by
    rw [← dotPhase_cpu s]
    rfl
  rw [hfetch, fetch_quiet (by rw [hreads, hpc, ← hilen]; exact hquiet)]
  simp only [hreads, hpc, hi, ← hilen, hstate]

/-! ## One instruction -/

/-- R401: a call of `clock()` with cycles left counts one. -/
theorem clock_counts {s : State} (h : 0 < s.cpu.cyclesRemaining) : clock s = .next (decrementCycles s) := if_pos h

theorem clockTimes_counts (k : Nat) (s : State) (hk : k = s.cpu.cyclesRemaining) :
    clockTimes k s = .next { s with cpu := { s.cpu with cyclesRemaining := 0 } } := by
  induction k generalizing s with
  | zero => simp [clockTimes, hk]
  | succ k ih =>
    have hclock := clock_counts (s := s) (by omega)
    unfold clockTimes
    rw [hclock]
    refine (ih (decrementCycles s) ?_).trans rfl
    show k = s.cpu.cyclesRemaining - 1
    omega

/-- R141: a fetch counts no cycles. -/
theorem fetchByteIf_totalCycles (b : Bool) (s : State) : (fetchByteIf b s).2.cpu.totalCycles = s.cpu.totalCycles := by
  cases b
  · rfl
  · show (fetchByte s).2.cpu.totalCycles = s.cpu.totalCycles
    rw [fetchByte_cpu]

theorem fetch_totalCycles (s : State) : (fetch s).2.cpu.totalCycles = s.cpu.totalCycles :=
  (fetchByteIf_totalCycles _ _).trans ((fetchByteIf_totalCycles _ _).trans (fetchByteIf_totalCycles true s))

theorem clock_config {s t : State} (h : clock s = .next t) : t.config = s.config :=
  (clock_keeps (workInvariant_counts s).toBusInvariant ⟨rfl, rfl, rfl, rfl⟩ h).2.2.2

/-- Settles O41: the first call executes, by `exec_endsIn` in at least two cycles; the rest count, as `clockTimes_counts` says. -/
theorem instructionOccupiesItsCycles : Obligations.InstructionOccupiesItsCycles := by
  unfold Obligations.InstructionOccupiesItsCycles
  intro s t hcycles hclock
  refine ⟨?count, fun hmodel => ?total⟩
  case count =>
    unfold cpuStep
    rw [hclock]
    exact clockTimes_counts _ t rfl
  case total =>
    have hconfig := clock_config hclock
    obtain ⟨n, u, hexec, htwo, -, htotal, -⟩ := exec_endsIn (fetch (beginInstruction s)).1 (fetch (beginInstruction s)).2
    have hdone : clock s = .next (complete n u) := (if_neg (by omega)).trans hexec
    obtain rfl : complete n u = t := by simpa [hdone] using hclock
    rw [fetch_totalCycles] at htotal
    have hleft : (complete n u).cpu.cyclesRemaining = n - 1 := by
      rw [complete_cpu_cyclesRemaining, show u.config.tickModel = .n from hconfig ▸ hmodel]
      rfl
    have hsum : (complete n u).cpu.totalCycles = s.cpu.totalCycles + n := congrArg (· + n) htotal
    omega

end Sys2Proof.Machine
end

section
/-! PROOFS. OAM DMA and the slots it holds (61_platform_devices.md section 4), reset, and what no step changes (R9, R91, R557, R580, R700). -/

namespace Sys2Proof.Machine

/-! ## A DMA slot -/

/-- R580: a slot before the transfer waits for an odd one. -/
theorem dmaStep_wait {c : Nat} {s : State} (hd : s.dma.dummy = true) :
    dmaStep c s = if c % 2 = 1 then { s with dma := { s.dma with dummy := false } } else s := if_pos hd

/-- R580: an even slot of the transfer reads a byte. -/
theorem dmaStep_read {c : Nat} {s : State} (hd : s.dma.dummy = false) (hc : c % 2 = 0) :
    dmaStep c s =
      { (busRead (mkWord s.dma.page s.dma.addr) s).2 with
        dma := { s.dma with data := readsAs s (mkWord s.dma.page s.dma.addr) } } := by
  obtain ⟨-, -, hdma, -⟩ := busRead_effects (mkWord s.dma.page s.dma.addr) s
  unfold dmaStep
  rw [if_neg (by simp [hd]), if_pos hc]
  dsimp only
  rw [hdma]
  rfl

/-- R580: an odd slot writes it to OAM, and ends the transfer after the page's last byte. -/
theorem dmaStep_write {c : Nat} {s : State} (hd : s.dma.dummy = false) (hc : c % 2 = 1) :
    dmaStep c s =
      { s with
        ppu := { s.ppu with oam := s.ppu.oam.write s.dma.addr.toNat s.dma.data }
        dma := { s.dma with
          addr := s.dma.addr + 1
          transferring := if s.dma.addr + 1 = 0 then false else s.dma.transferring
          dummy := if s.dma.addr + 1 = 0 then true else s.dma.dummy } } := by
  unfold dmaStep
  rw [if_neg (by simp [hd]), if_neg (by omega)]

/-- R90, R580: a DMA slot leaves the RAM and the cartridge. -/
theorem dmaStep_ram_cart (c : Nat) (s : State) : (dmaStep c s).ram = s.ram ∧ (dmaStep c s).cart = s.cart := by
  cases hd : s.dma.dummy
  case true => rw [dmaStep_wait hd]; split_ifs <;> exact ⟨rfl, rfl⟩
  case false =>
    rcases Nat.mod_two_eq_zero_or_one c with hc | hc
    · obtain ⟨hram, hcart, -⟩ := busRead_effects (mkWord s.dma.page s.dma.addr) s
      rw [dmaStep_read hd hc]
      exact ⟨hram, hcart⟩
    · rw [dmaStep_write hd hc]
      exact ⟨rfl, rfl⟩

/-- Settles O42: DMA has the slot before a stall, and a stall before the CPU. -/
theorem dmaAndStallHoldTheCpu : Obligations.DmaAndStallHoldTheCpu := by
  unfold Obligations.DmaAndStallHoldTheCpu
  intro s
  refine ⟨fun hdma => ⟨?_, dmaStep_cpu _ s, dmaStep_ram_cart _ s⟩, fun hdma hstall => ?_⟩
  · unfold slotWork
    rw [if_pos hdma]
  · unfold slotWork
    rw [if_neg (by simp [hdma]), if_pos hstall]

/-! ## DMA slots in a row -/

theorem dmaRun_add (m n c : Nat) (s : State) : dmaRun (m + n) c s = dmaRun n (c + m) (dmaRun m c s) := by
  induction m generalizing c s with
  | zero => rw [Nat.zero_add]; rfl
  | succ m ih =>
    have hc : c + 1 + m = c + (m + 1) := by omega
    rw [Nat.add_right_comm]
    exact (ih (c + 1) (dmaStep c s)).trans (by rw [hc]; rfl)

theorem dmaRun_succ (n c : Nat) (s : State) : dmaRun (n + 1) c s = dmaStep (c + n) (dmaRun n c s) := dmaRun_add n 1 c s

/-- R580: the transfer has moved `k` bytes, and is not over. -/
structure DmaAt (k : Nat) (t : State) : Prop where
  dummy : t.dma.dummy = false
  transferring : t.dma.transferring = true
  addr : t.dma.addr = BitVec.ofNat 8 k

theorem DmaAt.read {k c : Nat} {t : State} (h : DmaAt k t) (hc : c % 2 = 0) : DmaAt k (dmaStep c t) := by
  rw [dmaStep_read h.dummy hc]
  exact ⟨h.dummy, h.transferring, h.addr⟩

theorem DmaAt.addr_succ {k : Nat} {t : State} (h : DmaAt k t) : t.dma.addr + 1 = BitVec.ofNat 8 (k + 1) := by
  rw [h.addr]
  exact (BitVec.ofNat_add k 1).symm

theorem DmaAt.write {k c : Nat} {t : State} (h : DmaAt k t) (hc : c % 2 = 1) (hk : k < 255) : DmaAt (k + 1) (dmaStep c t) := by
  have hmore : t.dma.addr + 1 ≠ 0 := by
    rw [h.addr_succ]
    bv_omega
  rw [dmaStep_write h.dummy hc, if_neg hmore, if_neg hmore]
  exact ⟨h.dummy, h.transferring, h.addr_succ⟩

/-- R580: the last byte's write ends the transfer, ready for the next. -/
theorem DmaAt.finish {c : Nat} {t : State} (h : DmaAt 255 t) (hc : c % 2 = 1) :
    (dmaStep c t).dma.transferring = false ∧ (dmaStep c t).dma.dummy = true := by
  have hlast : t.dma.addr + 1 = 0 := h.addr_succ
  rw [dmaStep_write h.dummy hc, if_pos hlast, if_pos hlast]
  exact ⟨rfl, rfl⟩

section
variable {c : Nat} {e : State}

/-- R580: each byte takes an even slot and the odd one after it. -/
theorem DmaAt.run (he : DmaAt 0 e) (hc : c % 2 = 0) : ∀ k, k ≤ 255 → DmaAt k (dmaRun (2 * k) c e)
  | 0, _ => he
  | k + 1, hk => by
    rw [show 2 * (k + 1) = 2 * k + 1 + 1 from rfl, dmaRun_succ, dmaRun_succ]
    exact ((he.run hc k (by omega)).read (by omega)).write (by omega) (by omega)

/-- R580: 512 slots move a page. -/
theorem DmaAt.page (he : DmaAt 0 e) (hc : c % 2 = 0) :
    (∀ k, k < 512 → (dmaRun k c e).dma.transferring = true)
      ∧ (dmaRun 512 c e).dma.transferring = false ∧ (dmaRun 512 c e).dma.dummy = true := by
  refine ⟨fun k hk => ?_, ?_⟩
  · rcases Nat.even_or_odd' k with ⟨j, rfl | rfl⟩
    · exact (he.run hc j (by omega)).transferring
    · rw [dmaRun_succ]
      exact ((he.run hc j (by omega)).read (by omega)).transferring
  · rw [show 512 = 2 * 255 + 1 + 1 from rfl, dmaRun_succ, dmaRun_succ]
    exact ((he.run hc 255 (by omega)).read (by omega)).finish (by omega)

end

/-- R580: the slots before the first byte: none is lost at an odd one, one at an even one. -/
theorem dmaRun_wait {d : State} (c : Nat) (hd : d.dma.dummy = true) :
    let w := if c % 2 = 1 then 1 else 2
    (∀ k, k < w → dmaRun k c d = d) ∧ dmaRun w c d = { d with dma := { d.dma with dummy := false } } ∧ (c + w) % 2 = 0 := by
  by_cases hc : c % 2 = 1
  · simp only [if_pos hc]
    refine ⟨fun k hk => ?_, (dmaStep_wait hd).trans (if_pos hc), by omega⟩
    obtain rfl : k = 0 := by omega
    rfl
  · have hone : dmaRun 1 c d = d := (dmaStep_wait hd).trans (if_neg hc)
    simp only [if_neg hc]
    refine ⟨fun k hk => ?_, ?_, by omega⟩
    · obtain rfl | rfl : k = 0 ∨ k = 1 := by omega
      · rfl
      · exact hone
    · rw [dmaRun_succ, hone, dmaStep_wait hd, if_pos (by omega)]

/-! ## The bytes moved -/

theorem toNat_mkWord (hi lo : Byte) : (mkWord hi lo).toNat = hi.toNat * 256 + lo.toNat := by
  have hlo := lo.isLt
  unfold mkWord
  rw [BitVec.toNat_append, ← Nat.shiftLeft_add_eq_or_of_lt (by omega), Nat.shiftLeft_eq]

/-- R80: outside the PPU's registers a read depends neither on the PPU nor on the DMA. -/
theorem readsAs_setPpu_dma {a : Word} (s : State) (p : Ppu) (d : Dma) (ha : ¬ (0x2000 ≤ a.toNat ∧ a.toNat < 0x4000)) :
    readsAs { s with ppu := p, dma := d } a = readsAs s a := by
  unfold readsAs
  have k := busRead_cases a s
  generalize busRead a s = q at k
  cases k
  case ram h => rw [(ReadCase.ram h).eq]
  case ppu h h' => exact absurd ⟨h, h'⟩ ha
  case zero h h' h'' => rw [(ReadCase.zero h h' h'').eq]
  case status h => rw [(ReadCase.status h).eq]
  case pad1 h => rw [(ReadCase.pad1 h).eq]
  case pad2 h => rw [(ReadCase.pad2 h).eq]
  case cart h h' => rw [(ReadCase.cart h h').eq]
  case prgRam h k hk => rw [(ReadCase.prgRam h k hk).eq]

/-- R90: a page without a read side effect is none of the PPU's, since each of those has a mirror of $2002. -/
theorem quietPage_not_ppu {v : Byte} (hq : ∀ i : Byte, ¬ ReadHasSideEffect (mkWord v i)) (i : Byte) :
    ¬ (0x2000 ≤ (mkWord v i).toNat ∧ (mkWord v i).toNat < 0x4000) := by
  have hstatus := hq 2
  have hi := i.isLt
  have htwo : (2 : Byte).toNat = 2 := rfl
  unfold ReadHasSideEffect at hstatus
  rw [toNat_mkWord] at hstatus ⊢
  omega

/-- The System with OAM and the DMA's registers replaced. -/
def withOam (oam : Memory) (d : Dma) (s : State) : State := { s with ppu := { s.ppu with oam := oam }, dma := d }

/-- `t` is `s` with the first `k` bytes of page `v` moved into OAM. -/
structure PageMoved (s : State) (v : Byte) (k : Nat) (t : State) : Prop where
  frame : t = withOam t.ppu.oam t.dma s
  page : t.dma.page = v
  wf : t.ppu.oam.wf
  bytes : ∀ j, j < k → t.ppu.oam.read j = readsAs s (mkWord v (BitVec.ofNat 8 j))

/-- R580: two slots move the next byte. -/
theorem PageMoved.next {s t : State} {v : Byte} {k c : Nat} (hq : ∀ i : Byte, ¬ ReadHasSideEffect (mkWord v i))
    (h : PageMoved s v k t) (hat : DmaAt k t) (hk : k ≤ 255) (hc : c % 2 = 0) :
    PageMoved s v (k + 1) (dmaStep (c + 1) (dmaStep c t)) := by
  have hbyte : readsAs t (mkWord v t.dma.addr) = readsAs s (mkWord v (BitVec.ofNat 8 k)) := by
    rw [h.frame, ← hat.addr]
    exact readsAs_setPpu_dma s _ _ (quietPage_not_ppu hq _)
  have hread : dmaStep c t = { t with dma := { t.dma with data := readsAs s (mkWord v (BitVec.ofNat 8 k)) } } := by
    rw [dmaStep_read hat.dummy hc, h.page, busRead_quiet _ _ (hq _), hbyte]
  have haddr : t.dma.addr.toNat = k := by
    rw [hat.addr, BitVec.toNat_ofNat]
    exact Nat.mod_eq_of_lt (by omega)
  obtain ⟨d, hstep, hpage⟩ : ∃ d, dmaStep (c + 1) (dmaStep c t)
      = withOam (t.ppu.oam.write k (readsAs s (mkWord v (BitVec.ofNat 8 k)))) d t ∧ d.page = t.dma.page := by
    refine ⟨(dmaStep (c + 1) (dmaStep c t)).dma, ?_, ?_⟩
    · rw [dmaStep_write (hat.read hc).dummy (by omega), hread, ← haddr]
      rfl
    · rw [dmaStep_write (hat.read hc).dummy (by omega), hread]
  rw [hstep]
  refine ⟨(congrArg (withOam _ d) h.frame).trans rfl, hpage.trans h.page, Memory.write_wf _ _ _ h.wf, fun j hj => ?_⟩
  show (t.ppu.oam.write k _).read j = _
  by_cases hjk : j = k
  · rw [hjk, Memory.read_write_same _ _ _ h.wf]
  · rw [Memory.read_write_other _ _ _ _ hjk, h.bytes j (by omega)]

theorem PageMoved.run {s e : State} {v : Byte} {c : Nat} (hq : ∀ i : Byte, ¬ ReadHasSideEffect (mkWord v i))
    (h : PageMoved s v 0 e) (hat : DmaAt 0 e) (hc : c % 2 = 0) : ∀ k, k ≤ 256 → PageMoved s v k (dmaRun (2 * k) c e)
  | 0, _ => h
  | k + 1, hk => by
    rw [show 2 * (k + 1) = 2 * k + 1 + 1 from rfl, dmaRun_succ, dmaRun_succ]
    exact (h.run hq hat hc k (by omega)).next (c := c + 2 * k) hq (hat.run hc k (by omega)) (by omega) (by omega)

/-- Settles O43: `dmaRun_wait` says how the transfer starts, `DmaAt.page` how long it takes, `PageMoved.run` what it moves. -/
theorem oamDmaMovesAPageInItsSlots : Obligations.OamDmaMovesAPageInItsSlots := by
  unfold Obligations.OamDmaMovesAPageInItsSlots
  intro s v c hmem n d
  obtain ⟨-, -, ⟨-, -, ⟨hoam, -⟩, -⟩, -⟩ := hmem
  have hd : d = { s with dma := startDma v s.dma } := (WriteCase.dma rfl).eq
  obtain ⟨hwait, hstart, heven⟩ := dmaRun_wait (d := d) c (by rw [hd]; rfl)
  generalize hw : (if c % 2 = 1 then 1 else 2) = w at hwait hstart heven
  generalize he : ({ d with dma := { d.dma with dummy := false } } : State) = e at hstart
  have hat : DmaAt 0 e := by rw [← he, hd]; exact ⟨rfl, rfl, rfl⟩
  have hn : n = w + 512 := by
    simp only [n, ← hw]
    split_ifs <;> rfl
  have hrun : ∀ k, dmaRun (w + k) c d = dmaRun k (c + w) e := fun k => by rw [dmaRun_add, hstart]
  obtain ⟨hbusy, hdone, hready⟩ := hat.page heven
  rw [hn, hrun]
  refine ⟨fun k hk => ?_, hdone, hready, fun hq => ?_⟩
  · rcases Nat.lt_or_ge k w with hkw | hkw
    · rw [hwait k hkw, hd]
      rfl
    · obtain ⟨j, rfl⟩ := Nat.exists_eq_add_of_le hkw
      rw [hrun]
      exact hbusy j (by omega)
  · have hmoved : PageMoved s v 0 e := by rw [← he, hd]; exact ⟨rfl, rfl, hoam, fun j hj => absurd hj (Nat.not_lt_zero j)⟩
    have hpage : PageMoved s v 256 (dmaRun 512 (c + w) e) := hmoved.run hq hat heven 256 (by omega)
    refine ⟨fun i => ?_, _, _, hpage.frame⟩
    have hi := hpage.bytes i.toNat i.isLt
    rwa [BitVec.ofNat_toNat, BitVec.setWidth_eq] at hi

/-! ## Reset -/

/-- R427, R591: no mapper starts with a request pending. -/
theorem mapperPowerOnRegs_irqPending (v : MapperVariant) : (mapperPowerOnRegs v).irqPending = false := by
  cases v <;> rfl

/-- Settles O44: `systemReset_eq` is the table. -/
theorem resetLeavesItsTable : Obligations.ResetLeavesItsTable := by
  unfold Obligations.ResetLeavesItsTable
  intro s t c
  have ht : t = _ := systemReset_eq s
  have hram : ∀ a, InRam a → readsAs t a = 0 := by
    intro a ha
    rw [readsAs_ram t ha, ht]
    exact Memory.read_nil _
  have hpending : t.cart.mapper.irqPending = false := by
    rw [ht]
    exact mapperPowerOnRegs_irqPending _
  rw [ht] at hram hpending ⊢
  exact ⟨rfl, rfl, rfl, rfl, rfl, rfl, rfl, rfl, rfl, hram, rfl, rfl, rfl, rfl, rfl, rfl, rfl, rfl, hpending, rfl, rfl, rfl⟩

/-! ## What no step changes -/

/-- `t` has the ROM, the parameters, the buttons and the sample rate of `s`. -/
structure Fixed (s t : State) : Prop where
  cart : CartKept s.cart t.cart
  config : t.config = s.config
  buttons1 : t.pads.buttons1 = s.pads.buttons1
  buttons2 : t.pads.buttons2 = s.pads.buttons2
  sampleRate : t.apu.audio.sampleRate = s.apu.audio.sampleRate

theorem writeApuChannel_audio (k : Nat) (d : Byte) (a : Apu) : (writeApuChannel k d a).audio = a.audio := by
  unfold writeApuChannel
  split_ifs <;> rfl

theorem writeFrameCounter_audio (d : Byte) (a : Apu) : (writeFrameCounter d a).audio = a.audio := by
  rw [writeFrameCounter_eq]
  split_ifs <;> rfl

theorem frameTick_audio (w : FrameWrap) (a : Apu) : (frameTick w a).audio = a.audio := by
  unfold frameTick frameClocks
  dsimp only
  split_ifs <;> rfl

theorem resample_sampleRate (c : Config) (a : Apu) : (resample c a).audio.sampleRate = a.audio.sampleRate := by
  unfold resample
  dsimp only
  split_ifs <;> rfl

theorem busRead_fixed {s t : State} (a : Word) (h : Fixed s t) : Fixed s (busRead a t).2 := by
  obtain ⟨-, hcart, -, -, -, -, -, hconfig, -, hapu, hpads⟩ := busRead_effects a t
  exact ⟨hcart ▸ h.cart, hconfig.trans h.config, (congrArg Controllers.buttons1 hpads).trans h.buttons1,
    (congrArg Controllers.buttons2 hpads).trans h.buttons2,
    (congrArg (fun x : Apu => x.audio.sampleRate) hapu).trans h.sampleRate⟩

theorem busWrite_fixed {s t : State} (a : Word) (v : Byte) (h : Fixed s t) : Fixed s (busWrite a v t) := by
  have hcart : CartKept s.cart (busWrite a v t).cart := h.cart.trans (busWrite_cart a v t)
  have k := busWrite_cases a v t
  generalize busWrite a v t = u at k hcart
  cases k
  case apu _ _ k _ => exact { h with cart := hcart, sampleRate := (congrArg Audio.sampleRate (writeApuChannel_audio k v t.apu)).trans h.sampleRate }
  case frame => exact { h with cart := hcart, sampleRate := (congrArg Audio.sampleRate (writeFrameCounter_audio v t.apu)).trans h.sampleRate }
  case strobe =>
    have hstrobe : (writeStrobe v t.pads).buttons1 = t.pads.buttons1 ∧ (writeStrobe v t.pads).buttons2 = t.pads.buttons2 := by
      unfold writeStrobe
      split_ifs <;> exact ⟨rfl, rfl⟩
    exact { h with cart := hcart, buttons1 := hstrobe.1.trans h.buttons1, buttons2 := hstrobe.2.trans h.buttons2 }
  all_goals exact { h with cart := hcart }

/-- Every update a step is made of keeps them. -/
theorem stepInvariant_fixed (s : State) : StepInvariant (Fixed s) (fun _ => True) where
  read a _ h := busRead_fixed a h
  write a v _ h := busWrite_fixed a v h
  cpu _ _ h := { h with }
  stall _ h := { h with }
  dmc _ _ _ h := { h with }
  sequencer t h := { h with sampleRate := (congrArg Audio.sampleRate (frameTick_audio _ t.apu)).trans h.sampleRate }
  timers _ h := { h with }
  output t h := { h with sampleRate := (resample_sampleRate _ t.apu).trans h.sampleRate }
  eight := trivial
  fewer _ _ _ := trivial
  bits _ _ := trivial
  dma _ _ h := { h with }
  oam _ _ _ _ h := { h with }
  unstall _ h := { h with }
  mapperTick t h := { h with cart := h.cart.trans (mapperCpuTick_kept t.cart) }
  noNmi _ h := { h with }
  noMapperIrq t h := { h with cart := h.cart.trans (.regs t.cart _ t.cart.mirroring) }
  slots _ h := { h with }
  cycles _ h := { h with }
  dot t h := by
    unfold dotPhase
    dsimp only
    split_ifs
    · exact { h with cart := h.cart.trans (mapperScanlineTick_kept t.cart) }
    · exact { h with }

/-- Settles O47: `stepInvariant_fixed` keeps all but the cycle count, which `step_kept` does not let fall. -/
theorem stepNeverChangesRomOrParameters : Obligations.StepNeverChangesRomOrParameters := by
  unfold Obligations.StepNeverChangesRomOrParameters
  intro s t hstep
  obtain ⟨hcart, hconfig, hbuttons1, hbuttons2, hrate⟩ :=
    (stepInvariant_fixed s).step ⟨.refl _, rfl, rfl, rfl, rfl⟩ hstep
  exact ⟨hcart.prgRom, hcart.prgSize, hcart.variant, hcart.header, hcart.chrSize, hcart.chrRamFrom, hcart.rom, hconfig,
    hbuttons1, hbuttons2, hrate, (step_kept hstep).total⟩

end Sys2Proof.Machine
end

section
/-! PROOFS. Device registers on the bus: unmapped addresses, NROM, the controllers and the PPU's ports (20_memory.md section 4,
61_platform_devices.md sections 1, 3 and 5). -/

namespace Sys2Proof.Machine

/-! ## Unmapped addresses and NROM -/

/-- R500, R512: a write-only register reads $00. -/
theorem ppuRegRead_writeOnly {k : Nat} (c : Cartridge) (p : Ppu) (h2 : k ≠ 2) (h4 : k ≠ 4) (h7 : k ≠ 7) : ppuRegRead k c p = (0, p) := by
  unfold ppuRegRead
  rw [if_neg h2, if_neg h4, if_neg h7]

/-- Settles O6: each address is in a case of the bus that answers $00, or of which a write does nothing. -/
theorem unmappedAddressesReadZero : Obligations.UnmappedAddressesReadZero := by
  unfold Obligations.UnmappedAddressesReadZero
  intro s a
  refine ⟨fun ha => ?_, fun ha hram hmap => ?_, fun ha v => (WriteCase.nothing (by omega) (by omega)).eq⟩
  · rcases ha with ha | ha | ⟨hlow, hhigh, hreg⟩
    · exact (ReadCase.zero (by omega) (by omega) (by omega)).eq
    · exact (ReadCase.zero (by omega) (by omega) (by omega)).eq
    · rw [(ReadCase.ppu hlow hhigh).eq, ppuRegRead_writeOnly s.cart s.ppu (by omega) (by omega) (by omega)]
  · have hzero : cartRead s.cart a = 0 := by
      unfold cartRead
      rw [hmap]
    rw [(ReadCase.cart ha hram).eq, hzero]

/-- R592: what NROM reads. -/
theorem readsAs_nrom {s : State} {a : Word} (hvariant : s.cart.variant = .nrom) (ha : 0x8000 ≤ a.toNat) :
    readsAs s a = s.cart.prgRom.read ((a.toNat - 0x8000) % s.cart.prgSize) := by
  have hmap : cpuMapRead s.cart a = some ((a.toNat - 0x8000) % s.cart.prgSize) := by
    unfold cpuMapRead
    rw [hvariant]
    exact if_pos ha
  rw [readsAs_mapper s ha, cartRead, hmap]
  exact congrArg s.cart.prgRom.read (Nat.mod_mod _ _)

/-- Settles O7: by `readsAs_nrom`; 16 KB above an address is the same byte of a 16 KB ROM. -/
theorem nromMapsItsRomAndDropsStores : Obligations.NromMapsItsRomAndDropsStores := by
  unfold Obligations.NromMapsItsRomAndDropsStores
  intro s a hvariant ha
  have hlt := a.isLt
  refine ⟨fun hsize => ?_, fun hsize => ⟨?_, fun hlow => ?_⟩, fun v => ?_⟩
  · rw [readsAs_nrom hvariant ha, hsize, Nat.mod_eq_of_lt (by omega)]
  · rw [readsAs_nrom hvariant ha, hsize]
  · have hup : (a + 0x4000).toNat = a.toNat + 0x4000 := by bv_omega
    rw [readsAs_nrom hvariant ha, readsAs_nrom hvariant (by omega), hsize, hup]
    exact congrArg s.cart.prgRom.read (by omega)
  · exact busWrite_ignored v s hvariant (by omega) (by unfold InPrgRam; omega)

/-! ## Controllers -/

/-- R570: `k` reads of $4016 shift the register `k` times. -/
theorem repeat_readPad1 (s : State) (k : Nat) :
    Nat.repeat (fun u => (busRead 0x4016 u).2) k s = { s with pads := { s.pads with shift1 := s.pads.shift1 <<< k } } := by
  induction k with
  | zero => rw [BitVec.shiftLeft_zero]; rfl
  | succ k ih =>
    rw [BitVec.shiftLeft_add]
    exact (congrArg (fun u => (busRead 0x4016 u).2) ih).trans (congrArg Prod.snd (ReadCase.pad1 rfl).eq)

theorem repeat_readPad2 (s : State) (k : Nat) :
    Nat.repeat (fun u => (busRead 0x4017 u).2) k s = { s with pads := { s.pads with shift2 := s.pads.shift2 <<< k } } := by
  induction k with
  | zero => rw [BitVec.shiftLeft_zero]; rfl
  | succ k ih =>
    rw [BitVec.shiftLeft_add]
    exact (congrArg (fun u => (busRead 0x4017 u).2) ih).trans (congrArg Prod.snd (ReadCase.pad2 rfl).eq)

/-- R570 (D24): the byte a port returns after `k` reads: the top bit of the shifted register. -/
theorem padByte_shiftLeft (buttons : Byte) (k : Nat) :
    padByte (buttons <<< k) = if k < 8 ∧ buttons.getLsbD (7 - k) then 1 else 0 := by
  have htop : bitAt (buttons <<< k) 7 = decide (k < 8 ∧ buttons.getLsbD (7 - k)) := by
    have hle : (!decide (7 < k)) = decide (k < 8) := by rw [Bool.eq_iff_iff]; simp; omega
    rw [bitAt, BitVec.getLsbD_shiftLeft, hle, Bool.decide_and, Bool.decide_eq_true]
    rfl
  rw [padByte, htop]
  split_ifs with hset
  · rw [decide_eq_true hset]; rfl
  · rw [decide_eq_false hset]; rfl

/-- Settles O51: the strobe loads the shift registers, which the reads shift out. -/
theorem controllerReadsItsButtonsInOrder : Obligations.ControllerReadsItsButtonsInOrder := by
  unfold Obligations.ControllerReadsItsButtonsInOrder
  intro s d hd k
  have hstrobe : busWrite 0x4016 d s = { s with pads := { s.pads with shift1 := s.pads.buttons1, shift2 := s.pads.buttons2 } } := by
    have hpads : writeStrobe d s.pads = { s.pads with shift1 := s.pads.buttons1, shift2 := s.pads.buttons2 } := if_pos hd
    rw [(WriteCase.strobe rfl).eq, hpads]
  rw [hstrobe, repeat_readPad1, repeat_readPad2]
  exact ⟨(congrArg Prod.fst (ReadCase.pad1 rfl).eq).trans (padByte_shiftLeft _ k),
    (congrArg Prod.fst (ReadCase.pad2 rfl).eq).trans (padByte_shiftLeft _ k)⟩

/-! ## The PPU's status, control, scroll and address ports -/

theorem busRead_status (s : State) : busRead 0x2002 s = ((readStatus s.ppu).1, { s with ppu := (readStatus s.ppu).2 }) :=
  (ReadCase.ppu (by decide) (by decide)).eq

theorem busWrite_ctrl (s : State) (d : Byte) : busWrite 0x2000 d s = { s with ppu := writeCtrl d s.ppu } :=
  (WriteCase.ppu (by decide) (by decide)).eq

theorem busWrite_scroll (s : State) (d : Byte) : busWrite 0x2005 d s = { s with ppu := writeScroll d s.ppu } :=
  (WriteCase.ppu (by decide) (by decide)).eq

theorem busWrite_addr (s : State) (d : Byte) : busWrite 0x2006 d s = { s with ppu := writeAddr d s.ppu } :=
  (WriteCase.ppu (by decide) (by decide)).eq

/-- R506: the byte read is the status over the buffer. -/
theorem readStatus_getLsbD (p : Ppu) (k : Nat) :
    (readStatus p).1.getLsbD k = if k < 5 then p.dataBuffer.getLsbD k else p.status.getLsbD k := by
  show ((p.status &&& 0xE0) ||| (p.dataBuffer &&& 0x1F)).getLsbD k = _
  match k with
  | 0 | 1 | 2 | 3 | 4 | 5 | 6 | 7 | k + 8 => simp

/-- Settles O52: `readStatus` and `writeCtrl`, bit by bit. -/
theorem ppuStatusAndControl : Obligations.PpuStatusAndControl := by
  unfold Obligations.PpuStatusAndControl
  intro s d r t
  have hr : r = _ := busRead_status s
  have ht : t = _ := busWrite_ctrl s d
  rw [hr, ht]
  refine ⟨readStatus_getLsbD s.ppu, fun k => ?status, rfl, rfl, rfl, rfl, rfl, fun k hk => ?scroll⟩
  case status =>
    have hbit : bitAt (putBit s.ppu.status 7 false) k = _ := bitAt_putBit _ 7 false k
    refine hbit.trans ?_
    rcases Nat.lt_or_ge k 8 with hk | hk
    · by_cases h7 : k = 7 <;> simp [hk, h7, bitAt]
    · rw [if_neg (Nat.not_lt.mpr hk), BitVec.getLsbD_of_ge _ _ hk, Bool.false_and]
  case scroll =>
    have hbit : bitAt (putField s.ppu.t 10 (getField d 0 2)) k = _ := bitAt_putField _ 10 (getField d 0 2) k
    refine hbit.trans ?_
    rw [if_pos hk]
    by_cases h10 : k = 10
    · simp [h10, bitAt, getField]
    · by_cases h11 : k = 11
      · simp [h11, bitAt, getField]
      · rw [if_neg (by omega), if_neg h10, if_neg h11]
        rfl

/-- R509: the first and the second write to $2006. -/
theorem writeAddr_first (d : Byte) {p : Ppu} (hw : p.w = false) :
    writeAddr d p = { p with t := putBit (putField p.t 8 (getField d 0 6)) 14 false, w := true } :=
  if_neg (by rw [hw]; exact Bool.false_ne_true)

theorem writeAddr_second (d : Byte) {p : Ppu} (hw : p.w = true) :
    writeAddr d p = { p with t := putField p.t 0 d, v := putField p.t 0 d, w := false } := if_pos hw

/-- R509: the first and the second write to $2005. -/
theorem writeScroll_first (d : Byte) {p : Ppu} (hw : p.w = false) :
    writeScroll d p = { p with t := putField p.t 0 (getField d 3 5), fineX := getField d 0 3, w := true } :=
  if_neg (by rw [hw]; exact Bool.false_ne_true)

theorem writeScroll_second (d : Byte) {p : Ppu} (hw : p.w = true) :
    writeScroll d p = { p with t := putField (putField p.t 12 (getField d 0 3)) 5 (getField d 3 5), w := false } := if_pos hw

/-- R509: the address two bytes make, as a number. -/
theorem toNat_addrWritten (t : BitVec 15) (x y : Byte) :
    (putField (putBit (putField t 8 (getField x 0 6)) 14 false) 0 y).toNat = x.toNat % 64 * 256 + y.toNat := by
  have ht := t.isLt
  have hbit : (BitVec.ofBool false).toNat = 0 := rfl
  unfold putBit
  rw [toNat_putField _ _ _ (by decide), toNat_putField _ _ _ (by decide), toNat_putField _ _ _ (by decide), toNat_getField, hbit]
  omega

/-- R509: the scroll two bytes make, as a number: fine Y, the nametable bits kept, coarse Y, coarse X. -/
theorem toNat_scrollWritten (t : BitVec 15) (x y : Byte) :
    (putField (putField (putField t 0 (getField x 3 5)) 12 (getField y 0 3)) 5 (getField y 3 5)).toNat
      = y.toNat % 8 * 4096 + t.toNat / 1024 % 4 * 1024 + y.toNat / 8 * 32 + x.toNat / 8 := by
  have ht := t.isLt
  have hx := x.isLt
  have hy := y.isLt
  rw [toNat_putField _ _ _ (by decide), toNat_putField _ _ _ (by decide), toNat_putField _ _ _ (by decide), toNat_getField,
    toNat_getField, toNat_getField]
  omega

/-- R509: the fields of `t`: fine Y, nametable, coarse Y, coarse X. -/
theorem scroll_fields {fineY nametable coarseY coarseX n : Nat} (hnt : nametable < 4) (hy : coarseY < 32) (hx : coarseX < 32)
    (hn : n = fineY * 4096 + nametable * 1024 + coarseY * 32 + coarseX) :
    n % 32 = coarseX ∧ n / 32 % 32 = coarseY ∧ n / 4096 = fineY ∧ n / 1024 % 4 = nametable := by
  omega

/-- Settles O53: the first write sets half of `t`, the second the other half; `toNat_addrWritten` and `toNat_scrollWritten` read them. -/
theorem scrollAndAddressWrites : Obligations.ScrollAndAddressWrites := by
  unfold Obligations.ScrollAndAddressWrites
  intro s x y hw a b
  have hx := x.isLt
  have hy := y.isLt
  have ha : a.ppu = writeAddr y (writeAddr x s.ppu) := by simp only [a, busWrite_addr]
  have hb : b.ppu = writeScroll y (writeScroll x s.ppu) := by simp only [b, busWrite_scroll]
  rw [writeAddr_first x hw, writeAddr_second y rfl] at ha
  rw [writeScroll_first x hw, writeScroll_second y rfl] at hb
  have hscroll : b.ppu.t.toNat = _ := (congrArg (fun p : Ppu => p.t.toNat) hb).trans (toNat_scrollWritten s.ppu.t x y)
  refine ⟨?v, ?t, ?w, ?v', ?w', ?fineX, scroll_fields (Nat.mod_lt _ (by decide)) (by omega) (by omega) hscroll⟩
  case v => rw [ha]; exact toNat_addrWritten s.ppu.t x y
  case t | w => rw [ha]
  case v' | w' => rw [hb]
  case fineX => rw [hb]; simp

/-! ## The PPU's data port -/

/-- R510: a read of $2007. -/
theorem busRead_data (s : State) :
    busRead 0x2007 s = ((readData s.cart s.ppu).1, { s with ppu := (readData s.cart s.ppu).2 }) :=
  (ReadCase.ppu (by decide) (by decide)).eq

/-- R510, R511: `v` moves by 1 or 32, modulo $8000. -/
theorem toNat_nextV (p : Ppu) : (nextV p).toNat = (p.v.toNat + (if p.ctrl.getLsbD 2 then 32 else 1)) % 0x8000 := by
  unfold nextV bitAt
  rw [BitVec.toNat_add]
  split_ifs <;> rfl

/-- R510 (D23): a read of $2007 below the palette is of the buffer, which is refilled. -/
theorem readData_buffered (c : Cartridge) {p : Ppu} (h : (vAddr p).toNat < 0x3F00) :
    readData c p = (p.dataBuffer, { p with dataBuffer := ppuRead c p (vAddr p), v := nextV p }) := if_pos h

/-- R510 (D23): at the palette it is direct, and the buffer is refilled from the nametable below. -/
theorem readData_palette (c : Cartridge) {p : Ppu} (h : 0x3F00 ≤ (vAddr p).toNat) :
    readData c p = (ppuRead c p (vAddr p), { p with dataBuffer := ppuRead c p (vAddr p - 0x1000), v := nextV p }) :=
  if_neg (Nat.not_lt.mpr h)

theorem readData_v (c : Cartridge) (p : Ppu) : (readData c p).2.v = nextV p := by
  unfold readData
  dsimp only
  split_ifs <;> rfl

/-- Settles O54: reads by `readData_buffered` and `readData_palette`; a write reaches the PPU's own memory or CHR, which read it back. -/
theorem ppuDataPort : Obligations.PpuDataPort := by
  unfold Obligations.PpuDataPort
  intro s d hmem a r t next
  obtain ⟨-, ⟨-, -, ⟨hchr, -⟩, -, -⟩, ⟨⟨hnametable, -⟩, ⟨hpalette, -⟩, -⟩, -⟩ := hmem
  have hv : vAddr s.ppu = BitVec.ofNat 14 a := vAddr_eq s.ppu
  have ha : (vAddr s.ppu).toNat = a := by
    rw [hv, BitVec.toNat_ofNat]
    exact Nat.mod_eq_of_lt (Nat.mod_lt _ (by decide))
  have hr : r = _ := busRead_data s
  rw [← hv]
  refine ⟨fun hlow => ?buffered, fun hhigh => ?palette, ?nextRead, ?nextWrite, fun hhigh => ?vram, fun hlow hvariant hsize => ?chr⟩
  case buffered =>
    rw [hr, readData_buffered s.cart (ha ▸ hlow)]
    exact ⟨rfl, rfl⟩
  case palette =>
    have hbelow : BitVec.ofNat 14 (a - 0x1000) = vAddr s.ppu - 0x1000 := by
      rw [← ha] at hhigh ⊢
      bv_omega
    rw [hr, readData_palette s.cart (ha ▸ hhigh), hbelow]
    exact ⟨rfl, rfl⟩
  case nextRead =>
    rw [hr]
    exact (congrArg BitVec.toNat (readData_v s.cart s.ppu)).trans (toNat_nextV s.ppu)
  case nextWrite =>
    refine Eq.trans ?_ (toNat_nextV s.ppu)
    rcases Nat.lt_or_ge (vAddr s.ppu).toNat 0x2000 with hlow | hhigh
    · rw [show t = _ from busWrite_data_chr s d hlow]
    · rw [show t = _ from busWrite_data_vram s d hhigh]
  case vram =>
    rw [show t = _ from busWrite_data_vram s d (ha ▸ hhigh)]
    refine ⟨(ppuRead_setV _ _ _ _).trans (ppuRead_vramWrite_same d hnametable hpalette ?_), rfl⟩
    have hrange := (vAddr s.ppu).isLt
    rw [SamePpuByte]
    omega
  case chr =>
    have hlow' : (vAddr s.ppu).toNat < 0x2000 := ha ▸ hlow
    have ht : t = _ := busWrite_data_chr s d hlow'
    rw [chrWrite_nrom hvariant hsize d hlow'] at ht
    refine ⟨fun hram => ?_, fun hrom => ?_⟩
    · rw [if_pos (by simp [chrWritable, hram])] at ht
      have hread := ppuRead_nrom (c := { s.cart with chr := s.cart.chr.write (vAddr s.ppu).toNat d }) hvariant
        { s.ppu with v := nextV s.ppu } hlow'
      rw [ht, hread, hsize, Nat.mod_eq_of_lt hlow']
      exact Memory.read_write_same _ _ _ hchr
    · rw [if_neg (by simp [chrWritable, hrom]; omega)] at ht
      rw [ht]

end Sys2Proof.Machine
end

section
/-! PROOFS. The PPU's dots, the frame loop and sprite evaluation (61_platform_devices.md sections 1.3 and 1.5, 70_reset_and_hazards.md
section 3). -/

namespace Sys2Proof.Machine

/-! ## What a dot does to the status, the NMI and the frame's end -/

/-- `q` has the VBlank bit, the pending NMI and the end-of-frame mark of `p`. -/
structure EventsKept (p q : Ppu) : Prop where
  vblank : bitAt q.status 7 = bitAt p.status 7
  nmi : q.nmiPending = p.nmiPending
  complete : q.frameComplete = p.frameComplete

theorem EventsKept.refl (p : Ppu) : EventsKept p p := ⟨rfl, rfl, rfl⟩

theorem EventsKept.trans {p q r : Ppu} (h : EventsKept p q) (k : EventsKept q r) : EventsKept p r :=
  ⟨k.vblank.trans h.vblank, k.nmi.trans h.nmi, k.complete.trans h.complete⟩

/-- R513: where the dot is skipped. -/
def Skips (p : Ppu) : Prop := p.scanline = 0 ∧ p.cycle = 0 ∧ p.oddFrame = true ∧ renderingEnabled p = true

theorem skipDot_skips {p : Ppu} (h : Skips p) : skipDot p = { p with cycle := 1 } := if_pos h

theorem skipDot_stays {p : Ppu} (h : ¬ Skips p) : skipDot p = p := if_neg h

theorem skipDot_events (p : Ppu) : EventsKept p (skipDot p) := by
  by_cases h : Skips p
  · rw [skipDot_skips h]; exact ⟨rfl, rfl, rfl⟩
  · rw [skipDot_stays h]; exact .refl p

theorem advanceDot_status (p : Ppu) : (advanceDot p).status = p.status := by
  unfold advanceDot
  split_ifs <;> rfl

theorem advanceDot_nmiPending (p : Ppu) : (advanceDot p).nmiPending = p.nmiPending := by
  unfold advanceDot
  split_ifs <;> rfl

theorem advanceDot_frameComplete (p : Ppu) : (advanceDot p).frameComplete = p.frameComplete := by
  unfold advanceDot
  split_ifs <;> rfl

theorem advanceDot_events (p : Ppu) : EventsKept p (advanceDot p) :=
  ⟨congrArg (bitAt · 7) (advanceDot_status p), advanceDot_nmiPending p, advanceDot_frameComplete p⟩

/-- R513: pixel output sets no status bit but sprite-0 hit. -/
theorem outputPixel_events (c : Cartridge) (p : Ppu) : EventsKept p (outputPixel c p) := by
  refine ⟨?_, rfl, rfl⟩
  simp only [outputPixel]
  split_ifs
  · rw [bitAt_putBit]; rfl
  · rfl

/-- R513: off (241, 1) a dot's events leave VBlank. -/
theorem dotEvents_events (c : Cartridge) {p : Ppu} (h : ¬ (p.scanline = 241 ∧ p.cycle = 1)) : EventsKept p (dotEvents c p) := by
  unfold dotEvents
  rw [if_neg h]
  dsimp only
  split_ifs
  · exact outputPixel_events c p
  · exact .refl p

/-- R513: at (241, 1) VBlank starts and no pixel is put out. -/
theorem dotEvents_vblankStart (c : Cartridge) {p : Ppu} (hline : p.scanline = 241) (hcycle : p.cycle = 1) :
    dotEvents c p = vblankStart p := by
  have hstart : (if p.scanline = 241 ∧ p.cycle = 1 then vblankStart p else p) = vblankStart p := if_pos ⟨hline, hcycle⟩
  unfold dotEvents
  dsimp only
  rw [hstart]
  refine if_neg fun ⟨_, (hout : p.scanline ≤ 239), _⟩ => ?_
  omega

/-- R513: the pre-render line has no event. -/
theorem dotEvents_preRender (c : Cartridge) {p : Ppu} (hline : p.scanline = -1) : dotEvents c p = p := by
  have hquiet : (if p.scanline = 241 ∧ p.cycle = 1 then vblankStart p else p) = p := if_neg fun h => by omega
  unfold dotEvents
  dsimp only
  rw [hquiet]
  exact if_neg fun h => by omega

/-- R513, R514: at (-1, 1) the status is cleared and the frame ends; no sprite work is done there. -/
theorem renderLine_preRender (c : Cartridge) {p : Ppu} (hline : p.scanline = -1) (hcycle : p.cycle = 1) :
    renderLine c p = backgroundStep c (preRenderClear p) := by
  have hsame := (backgroundStep_only c (preRenderClear p)).dotWork
  have hline' : (backgroundStep c (preRenderClear p)).scanline = -1 := hsame.scanline.trans hline
  have hcycle' : (backgroundStep c (preRenderClear p)).cycle = 1 := hsame.cycle.trans hcycle
  have hsprites : spriteStep c (backgroundStep c (preRenderClear p)) = backgroundStep c (preRenderClear p) :=
    if_neg fun h => by omega
  have hclear : (if p.scanline = -1 ∧ p.cycle = 1 then preRenderClear p else p) = preRenderClear p := if_pos ⟨hline, hcycle⟩
  unfold renderLine
  dsimp only
  rw [if_pos (by omega), hclear, hsprites]
  exact if_neg fun h => by omega

/-- R513, R514: the dot (-1, 1). -/
theorem ppuDot_preRender (c : Cartridge) {p : Ppu} (hline : p.scanline = -1) (hcycle : p.cycle = 1) :
    (ppuDot c p).status = p.status &&& 0x1F ∧ (ppuDot c p).frameComplete = true := by
  have hskip : skipDot p = p := skipDot_stays fun h => by have := h.1; omega
  have hback := (backgroundStep_only c (preRenderClear p)).1
  have hevents : dotEvents c (backgroundStep c (preRenderClear p)) = backgroundStep c (preRenderClear p) :=
    dotEvents_preRender c ((backgroundStep_only c (preRenderClear p)).dotWork.scanline.trans hline)
  rw [ppuDot_eq, advanceDot_status, advanceDot_frameComplete, dotWorkOf, hskip, renderLine_preRender c hline hcycle, hevents, hback]
  exact ⟨rfl, rfl⟩

/-- R513: the dot (241, 1). -/
theorem ppuDot_vblankStart (c : Cartridge) {p : Ppu} (hline : p.scanline = 241) (hcycle : p.cycle = 1) :
    ppuDot c p = advanceDot (vblankStart p) := by
  have hskip : skipDot p = p := skipDot_stays fun h => by have := h.1; omega
  have hrender : renderLine c p = p := if_neg fun h => by omega
  rw [ppuDot_eq, dotWorkOf, hskip, hrender, dotEvents_vblankStart c hline hcycle]

theorem ppuDot_vblank (c : Cartridge) {p : Ppu} (hline : p.scanline = 241) (hcycle : p.cycle = 1) :
    bitAt (ppuDot c p).status 7 = true ∧ (ppuDot c p).nmiPending = (p.nmiPending || bitAt p.ctrl 7) := by
  rw [ppuDot_vblankStart c hline hcycle, advanceDot_status, advanceDot_nmiPending]
  exact ⟨by rw [vblankStart, bitAt_putBit]; rfl, rfl⟩

/-- R513, R514: every other dot. -/
theorem ppuDot_events (c : Cartridge) {p : Ppu} (hvblank : ¬ (p.scanline = 241 ∧ p.cycle = 1))
    (hpre : ¬ (p.scanline = -1 ∧ p.cycle = 1)) : EventsKept p (ppuDot c p) := by
  have hline : (skipDot p).scanline = p.scanline := skipDot_scanline p
  have hcycle : (skipDot p).cycle = p.cycle ∨ p.scanline = 0 := by
    by_cases h : Skips p
    · exact .inr h.1
    · rw [skipDot_stays h]; exact .inl rfl
  obtain ⟨hbit, hnmi, hcomplete, -⟩ := renderLine_events c (skipDot p) (by omega)
  have hrender := renderLine_dotWork c (skipDot p)
  have hline' := hrender.scanline
  have hcycle' := hrender.cycle
  exact (((skipDot_events p).trans ⟨hbit, hnmi, hcomplete⟩).trans (dotEvents_events c (by omega))).trans (advanceDot_events _)

/-- R514: no other dot ends the frame. -/
theorem ppuDot_frameComplete (c : Cartridge) {p : Ppu} (hpre : ¬ (p.scanline = -1 ∧ p.cycle = 1)) :
    (ppuDot c p).frameComplete = p.frameComplete := by
  by_cases hvblank : p.scanline = 241 ∧ p.cycle = 1
  · rw [ppuDot_vblankStart c hvblank.1 hvblank.2, advanceDot_frameComplete]
    rfl
  · exact (ppuDot_events c hvblank hpre).complete

/-- Settles O56: the position by `ppuDot_position`, the events by the three kinds of dot. -/
theorem dotsWalkTheFrame : Obligations.DotsWalkTheFrame := by
  unfold Obligations.DotsWalkTheFrame
  intro c p hlow hhigh hcycle q skip
  obtain ⟨hc, hl, hodd⟩ := ppuDot_position c p
  have hstays : ¬ skip → (skipDot p).cycle = p.cycle := fun h => congrArg Ppu.cycle (skipDot_stays h)
  have hskips : skip → (skipDot p).cycle = 1 := fun h => congrArg Ppu.cycle (skipDot_skips h)
  refine ⟨fun h => ?_, fun h hlt => ?_, fun hlast => ?_, ?_, fun hline hcyc => ppuDot_vblank c hline hcyc, fun hline hcyc => ?_,
    fun hvblank hpre => ?_⟩
  · rw [hskips h, if_neg (by decide)] at hc hl
    exact ⟨hl.trans h.1, hc⟩
  · rw [hstays h, if_neg (by omega)] at hc hl
    exact ⟨hl, hc⟩
  · have hno : ¬ skip := fun h => by have := h.2.1; omega
    rw [hstays hno, if_pos hlast] at hc hl
    exact ⟨hc, hl⟩
  · by_cases h : skip
    · have hline : p.scanline = 0 := h.1
      rw [hodd, hline]
      rfl
    · rw [hodd, hstays h]
  · obtain ⟨hstatus, hcomplete⟩ := ppuDot_preRender c hline hcyc
    rw [hstatus]
    exact ⟨by simp, by simp, by simp, hcomplete⟩
  · obtain ⟨hbit, hnmi, hcomplete⟩ := ppuDot_events c hvblank hpre
    exact ⟨hbit, hnmi, hcomplete⟩

/-! ## The frame loop -/

/-- R513: the number of a position on the grid of 341 by 262, the pre-render line first. -/
def dotIndex (p : Ppu) : Nat := ((p.scanline + 1) * 341 + p.cycle).toNat

/-- R514: how many dots it is to the end of the frame, dot (-1, 1) among them, if none is skipped. -/
def dotsLeft (p : Ppu) : Nat := if dotIndex p ≤ 1 then 2 - dotIndex p else 262 * 341 + 2 - dotIndex p

/-- The PPU's position is on the grid. -/
def OnGrid (p : Ppu) : Prop := -1 ≤ p.scanline ∧ p.scanline ≤ 260 ∧ p.cycle ≤ 340

theorem dotsLeft_bounds {p : Ppu} (h : OnGrid p) : 1 ≤ dotsLeft p ∧ dotsLeft p ≤ 262 * 341 := by
  obtain ⟨hlow, hhigh, hcycle⟩ := h
  unfold dotsLeft dotIndex
  split_ifs <;> omega

/-- R513: a dot but the frame's last brings the end nearer. -/
theorem dotsLeft_ppuDot (c : Cartridge) {p : Ppu} (h : OnGrid p) (hpre : ¬ (p.scanline = -1 ∧ p.cycle = 1)) :
    dotsLeft (ppuDot c p) < dotsLeft p := by
  obtain ⟨hlow, hhigh, hcycle⟩ := h
  obtain ⟨hc, hl, -⟩ := ppuDot_position c p
  have hskip : (skipDot p).cycle = p.cycle ∨ ((skipDot p).cycle = 1 ∧ p.scanline = 0 ∧ p.cycle = 0) := by
    by_cases h : Skips p
    · exact .inr ⟨congrArg Ppu.cycle (skipDot_skips h), h.1, h.2.1⟩
    · exact .inl (congrArg Ppu.cycle (skipDot_stays h))
  unfold dotsLeft dotIndex
  rw [hc, hl]
  split_ifs <;> omega

/-- R720: the loop ends with the dot (-1, 1), when at most `k` dots are left to it. -/
theorem runTicks_ends (k : Nat) (s : State) (hrom : s.romLoaded = true) (hgrid : OnGrid s.ppu) (hopen : s.ppu.frameComplete = false)
    (hk : dotsLeft s.ppu ≤ k) :
    ∃ t, runTicks k s = .next t ∧ t.ppu.frameComplete = true ∧ t.ppu.scanline = -1 ∧ t.ppu.cycle = 2
      ∧ t.ppu.status.getLsbD 7 = false ∧ s.masterCount < t.masterCount ∧ t.masterCount ≤ s.masterCount + k := by
  induction k generalizing s with
  | zero => have := (dotsLeft_bounds hgrid).1; omega
  | succ k ih =>
    obtain ⟨u, hu⟩ := step_next hrom
    obtain ⟨hmaster, -, hloaded, -⟩ := step_counts hu
    have hpos := step_framePos hu
    obtain ⟨hlow, hhigh, hcycle⟩ := hgrid
    by_cases hpre : s.ppu.scanline = -1 ∧ s.ppu.cycle = 1
    · obtain ⟨hline, hone⟩ := hpre
      obtain ⟨hstatus, hcomplete⟩ := ppuDot_preRender s.cart hline hone
      have hskip : skipDot s.ppu = s.ppu := skipDot_stays fun h => by have := h.1; omega
      obtain ⟨hc, hl, -⟩ := ppuDot_position s.cart s.ppu
      rw [hskip, hone] at hc hl
      have hdone : u.ppu.frameComplete = true := hpos.complete.trans hcomplete
      have hclear : u.ppu.status.getLsbD 7 = false := by
        refine Bool.eq_false_iff.mpr fun hset => ?_
        have hdot := hpos.vblank hset
        rw [hstatus] at hdot
        simp [bitAt] at hdot
      have hrun : runTicks (k + 1) s = .next u := by
        unfold runTicks
        rw [hu]
        exact if_pos hdone
      exact ⟨u, hrun, hdone, hpos.scanline.trans (hl.trans hline), hpos.cycle.trans hc, hclear, by omega, by omega⟩
    · have hnear := dotsLeft_ppuDot s.cart ⟨hlow, hhigh, hcycle⟩ hpre
      have hopen' : u.ppu.frameComplete = false := by
        rw [hpos.complete, ppuDot_frameComplete s.cart hpre, hopen]
      have hleft : dotsLeft u.ppu = dotsLeft (ppuDot s.cart s.ppu) := by
        unfold dotsLeft dotIndex
        rw [hpos.scanline, hpos.cycle]
      have hgrid' : OnGrid u.ppu := by
        rw [OnGrid, hpos.scanline, hpos.cycle]
        exact ppuDot_grid s.cart s.ppu hlow hhigh hcycle
      obtain ⟨t, hrun, hcomplete, hl, hc, hclear, hmore, hmost⟩ := ih u (hloaded.trans hrom) hgrid' hopen' (by omega)
      have hrun' : runTicks (k + 1) s = .next t := by
        rw [← hrun, runTicks, hu]
        exact if_neg (by rw [hopen']; exact Bool.false_ne_true)
      exact ⟨t, hrun', hcomplete, hl, hc, hclear, by omega, by omega⟩

/-- Settles O48: a position on the grid is at most one frame from the end, where `runTicks_ends` stops. -/
theorem runFrameReturnsAtThePreRenderLine : Obligations.RunFrameReturnsAtThePreRenderLine := by
  unfold Obligations.RunFrameReturnsAtThePreRenderLine
  intro s hrom hgrid
  exact runTicks_ends 89342 { s with ppu := { s.ppu with frameComplete := false } } hrom hgrid rfl (dotsLeft_bounds hgrid).2

/-! ## Sprite evaluation -/

/-- A byte after a row of bytes was written. -/
theorem Memory.read_writeAll (vs : List Byte) (m : Memory) (k i : Nat) (hm : m.wf) :
    (m.writeAll k vs).read i = if k ≤ i ∧ i < k + vs.length then vs.getD (i - k) 0 else m.read i := by
  induction vs generalizing m k with
  | nil => exact (if_neg (by simp)).symm
  | cons v vs ih =>
    refine (ih (m.write k v) (k + 1) (Memory.write_wf _ _ _ hm)).trans ?_
    rw [List.length_cons]
    rcases Nat.lt_trichotomy i k with hik | rfl | hik
    · rw [if_neg (by omega), if_neg (by omega), Memory.read_write_other _ _ _ _ (by omega)]
    · rw [if_neg (by omega), if_pos (by omega), Memory.read_write_same _ _ _ hm, Nat.sub_self]
      rfl
    · obtain ⟨j, rfl⟩ : ∃ j, i = k + 1 + j := ⟨i - (k + 1), by omega⟩
      rw [Memory.read_write_other _ _ _ _ (by omega), show k + 1 + j - k = j + 1 by omega, Nat.add_sub_cancel_left]
      exact if_congr (by omega) rfl rfl

/-- R530: OAM entry `e` is on the scanline. -/
def inRange (p : Ppu) (e : Nat) : Bool :=
  decide (0 ≤ p.scanline - (p.oam.read (4 * e)).toNat
    ∧ p.scanline - (p.oam.read (4 * e)).toNat < (if p.ctrl.getLsbD 5 then 16 else 8))

theorem inRange_iff (p : Ppu) (e : Nat) :
    inRange p e = true ↔
      0 ≤ p.scanline - (p.oam.read (4 * e)).toNat ∧ p.scanline - (p.oam.read (4 * e)).toNat < spriteHeight p := by
  have hheight : (if p.ctrl.getLsbD 5 then 16 else 8 : Int) = spriteHeight p := by
    unfold spriteHeight bitAt
    split_ifs <;> rfl
  rw [inRange, decide_eq_true_iff, hheight]

/-- R530: the entries on the scanline among the first `n`, in OAM order. -/
def entriesFound (p : Ppu) (n : Nat) : List Nat := (List.range n).filter (inRange p)

theorem entriesFound_succ_in {p : Ppu} {n : Nat} (h : inRange p n = true) : entriesFound p (n + 1) = entriesFound p n ++ [n] := by
  rw [entriesFound, List.range_succ, List.filter_append, List.filter_singleton, h]
  rfl

theorem entriesFound_succ_out {p : Ppu} {n : Nat} (h : inRange p n = false) : entriesFound p (n + 1) = entriesFound p n := by
  rw [entriesFound, List.range_succ, List.filter_append, List.filter_singleton, h]
  exact List.append_nil _

theorem entriesFound_length_le (p : Ppu) (n : Nat) : (entriesFound p n).length ≤ n :=
  (List.length_filter_le _ _).trans List.length_range.le

/-! R530: what one entry does to the scan: nothing, a copy, or a count. -/

section
variable {p : Ppu} {e : Nat} {acc : SpriteScan}

theorem scanEntry_out (h : inRange p e = false) : scanEntry p acc e = acc :=
  if_neg fun hin => Bool.eq_false_iff.mp h ((inRange_iff p e).mpr hin)

theorem scanEntry_copied (h : inRange p e = true) (hroom : acc.found < 8) :
    scanEntry p acc e =
      { found := acc.found + 1
        secondary := acc.secondary.writeAll (4 * acc.found)
          [p.oam.read (4 * e), p.oam.read (4 * e + 1), p.oam.read (4 * e + 2), p.oam.read (4 * e + 3)]
        sprite0 := acc.sprite0 || e == 0 } :=
  (if_pos ((inRange_iff p e).mp h)).trans (if_pos hroom)

theorem scanEntry_counted (h : inRange p e = true) (hfull : 8 ≤ acc.found) :
    scanEntry p acc e = { acc with found := acc.found + 1 } :=
  (if_pos ((inRange_iff p e).mp h)).trans (if_neg (Nat.not_lt.mpr hfull))

end

/-- The scan has gone through the first `n` entries. -/
structure Scanned (p : Ppu) (n : Nat) (acc : SpriteScan) : Prop where
  found : acc.found = (entriesFound p n).length
  sprite0 : acc.sprite0 = (decide (0 < n) && inRange p 0)
  ok : acc.secondary.Ok 32
  bytes : ∀ i j, i < 8 → j < 4 → i < (entriesFound p n).length →
    acc.secondary.read (4 * i + j) = p.oam.read (4 * (entriesFound p n).getD i 0 + j)

section
variable {p : Ppu} {n : Nat} {acc : SpriteScan}

theorem Scanned.next_out (h : Scanned p n acc) (hout : inRange p n = false) : Scanned p (n + 1) acc := by
  have hentries := entriesFound_succ_out hout
  refine ⟨hentries ▸ h.found, ?_, h.ok, hentries ▸ h.bytes⟩
  rcases n with _ | n
  · rw [h.sprite0, hout]
    rfl
  · simpa using h.sprite0

/-- R530: an entry copied is the next one of secondary OAM. -/
theorem Scanned.next_copied (h : Scanned p n acc) (hin : inRange p n = true) (hroom : acc.found < 8) :
    Scanned p (n + 1) (scanEntry p acc n) := by
  have hentries := entriesFound_succ_in hin
  have hok : (scanEntry p acc n).secondary.Ok 32 := scanEntry_ok p acc n h.ok
  rw [scanEntry_copied hin hroom] at hok ⊢
  refine ⟨by rw [hentries, h.found, List.length_append]; rfl, ?_, hok, fun i j hi hj hlt => ?_⟩
  · rcases n with _ | n
    · simp [hin]
    · simpa using h.sprite0
  · rw [hentries, List.length_append, List.length_singleton] at hlt
    refine (Memory.read_writeAll _ _ _ _ h.ok.1).trans ?_
    rw [List.length_cons, List.length_cons, List.length_cons, List.length_singleton, h.found, hentries]
    rcases Nat.lt_or_ge i (entriesFound p n).length with hold | hnew
    · rw [if_neg (by omega), List.getD_append _ _ _ _ hold]
      exact h.bytes i j hi hj hold
    · obtain rfl : i = (entriesFound p n).length := by omega
      rw [if_pos (by omega), Nat.add_sub_cancel_left, List.getD_append_right _ _ _ _ hnew, Nat.sub_self]
      match j, hj with
      | 0, _ | 1, _ | 2, _ | 3, _ => rfl

theorem Scanned.next_counted (h : Scanned p n acc) (hin : inRange p n = true) (hfull : 8 ≤ acc.found) :
    Scanned p (n + 1) (scanEntry p acc n) := by
  have hentries := entriesFound_succ_in hin
  have hlength := entriesFound_length_le p n
  have hfound := h.found
  rw [scanEntry_counted hin hfull]
  refine ⟨by rw [hentries, h.found, List.length_append]; rfl, ?_, h.ok, fun i j hi hj _ => ?_⟩
  · rw [h.sprite0, decide_eq_true (p := 0 < n) (by omega), decide_eq_true (Nat.succ_pos n)]
  · rw [hentries, List.getD_append _ _ _ _ (by omega)]
    exact h.bytes i j hi hj (by omega)

/-- R530: the next entry. -/
theorem Scanned.next (h : Scanned p n acc) : Scanned p (n + 1) (scanEntry p acc n) := by
  cases hin : inRange p n
  case false =>
    rw [scanEntry_out hin]
    exact h.next_out hin
  case true =>
    rcases Nat.lt_or_ge acc.found 8 with hroom | hfull
    · exact h.next_copied hin hroom
    · exact h.next_counted hin hfull

end

theorem spriteScan_scanned (p : Ppu) : Scanned p 64 (spriteScan p) := by
  have hscan : ∀ n, Scanned p n ((List.range n).foldl (scanEntry p)
      { found := 0, secondary := Memory.ofBytes (List.replicate 32 0xFF), sprite0 := false }) := by
    intro n
    induction n with
    | zero => exact ⟨rfl, rfl, Memory.ofBytes_ok _, fun i j _ _ hi => absurd hi (Nat.not_lt_zero i)⟩
    | succ n ih =>
      rw [List.range_succ, List.foldl_append]
      exact ih.next
  exact hscan 64

/-- Settles O57: the scan of all 64 entries, and the overflow bit set from its count. -/
theorem spriteEvaluationTakesTheFirstEight : Obligations.SpriteEvaluationTakesTheFirstEight := by
  unfold Obligations.SpriteEvaluationTakesTheFirstEight
  intro p inRange' found q
  obtain ⟨hfound, hsprite0, -, hbytes⟩ := spriteScan_scanned p
  refine ⟨congrArg (min · 8) hfound, ?_, hsprite0.trans (Bool.true_and _), hbytes⟩
  have hcount : (spriteScan p).found = found.length := hfound
  show bitAt (if 8 < (spriteScan p).found then putBit p.status 5 true else p.status) 5 = _
  rw [hcount]
  split_ifs with hover
  · rw [bitAt_putBit, decide_eq_true hover, Bool.or_true]
    rfl
  · rw [decide_eq_false hover, Bool.or_false]
    rfl

end Sys2Proof.Machine
end
